-- ==== Sys2Proof/Word.lean ====
section
/-!
DEFINITION. The word type of the RelayCard frame codec: everything in the block is an unsigned byte or a boolean
(41_frame_codec.md R113, 00_scope.md R9).
-/

namespace Sys2Proof

/-- A byte, 0..255, bit 0 least significant (R9). -/
abbrev Byte := BitVec 8

end Sys2Proof
end

