-- ==== Sys2Proof/Syntax.lean ====
section
/-!
DEFINITION. The values that cross the block's ports (frames, ports, relay states), the instructions, one constructor per row of the
opcode table, and the words in which a host hands an instruction over.
-/

namespace Sys2Proof

/-- The 8 relay outputs of one board, or a mask of them: `port i` is relay `i + 1` (10_state.md R11, R12; 30_encoding.md R53). Exactly eight
booleans by its type, so the port count of 40_relay_state_codec.md R87 cannot be other than 8. -/
structure Ports where
  port0 : Bool
  port1 : Bool
  port2 : Bool
  port3 : Bool
  port4 : Bool
  port5 : Bool
  port6 : Bool
  port7 : Bool
deriving DecidableEq, Repr

/-- A RelayState: the 8 ports of a board and its address (10_state.md R11). A decoded one may have address 0 (R13). -/
structure RelayState where
  ports : Ports
  address : Byte
deriving DecidableEq, Repr

/-- A frame: four bytes in wire order (30_encoding.md R50). `code` is the command of a request (R51) and the response code of a response
(R52). -/
structure Frame where
  code : Byte
  address : Byte
  data : Byte
  checksum : Byte
deriving DecidableEq, Repr

/-- The instructions: one constructor per row of the opcode table, in the table's order. A request command takes no checksum operand
(10_state.md R17, 30_encoding.md R61). -/
inductive Instr where
  /-- `NOP`, request command 0 (R120). -/
  | nop (address data : Byte)
  /-- `SETUP`, request command 1 (R121). -/
  | setup (address data : Byte)
  /-- `GETPORT`, request command 2 (R122); the instruction as R122 writes it has data 0. -/
  | getport (address data : Byte)
  /-- `SETPORT`, request command 3 (R123). -/
  | setport (address data : Byte)
  /-- `GETOPTION`, request command 4 (R124). -/
  | getoption (address data : Byte)
  /-- `SETOPTION`, request command 5 (R125). -/
  | setoption (address data : Byte)
  /-- `SETSINGLE`, request command 6 (R126). -/
  | setsingle (address data : Byte)
  /-- `DELSINGLE`, request command 7 (R127). -/
  | delsingle (address data : Byte)
  /-- `TOGGLE`, request command 8 (R128). -/
  | toggle (address data : Byte)
  /-- `R.NOP`, response code 255 (R130). -/
  | rNop (address data checksum : Byte)
  /-- `R.SETUP`, response code 254 (R131). -/
  | rSetup (address data checksum : Byte)
  /-- `R.GETPORT`, response code 253 (R132). -/
  | rGetport (address data checksum : Byte)
  /-- `R.SETPORT`, response code 252 (R133). -/
  | rSetport (address data checksum : Byte)
  /-- `R.GETOPTION`, response code 251 (R134). -/
  | rGetoption (address data checksum : Byte)
  /-- `R.SETOPTION`, response code 250 (R135). -/
  | rSetoption (address data checksum : Byte)
  /-- `R.SETSINGLE`, response code 249 (R136). -/
  | rSetsingle (address data checksum : Byte)
  /-- `R.DELSINGLE`, response code 248 (R137). -/
  | rDelsingle (address data checksum : Byte)
  /-- `R.TOGGLE`, response code 247 (R138). -/
  | rToggle (address data checksum : Byte)
  /-- `RS.FROMBYTE b`, select 0 (R83). -/
  | rsFromByte (b : Byte)
  /-- `RS.TOBYTE ports`, select 1 (R84). -/
  | rsToByte (ports : Ports)
  /-- `RS.MAKE ports, address`, select 2 (R85). -/
  | rsMake (ports : Ports) (address : Byte)
  /-- `RS.ONEHOT address, portIndex`, select 3 (R86). -/
  | rsOnehot (address portIndex : Byte)
  /-- `REQ.ENCODE command, address, data`, select 4 (R102). -/
  | reqEncode (command address data : Byte)
  /-- `RSP.DECODE f`, select 5 (R104). -/
  | rspDecode (f : Frame)
  /-- `RSP.CLASS`, select 6 (R106). -/
  | rspClass
  /-- `RSP.STATE`, select 7 (R107). -/
  | rspState
deriving DecidableEq, Repr

/-- An instruction as the host hands it over: a word of format OP or a word of format REQ or RSP (30_encoding.md, the three groups of the
opcode table). -/
inductive IssueWord where
  /-- The operation-select port (its four bits in the low half of `sel`; R70) and four operand ports of a byte each (R71). Which operand stands
  on which port is the model's: log entry 3. -/
  | op (sel p0 p1 p2 p3 : Byte)
  /-- A frame in wire order; byte 0 tells its direction (R58). -/
  | frame (f : Frame)
deriving DecidableEq, Repr

/-- Why a word spells no instruction. -/
inductive Reject where
  /-- The operation select is none of 0x0 to 0x7 (R70, U17). -/
  | noOperation (sel : Byte)
  /-- Byte 0 of the frame is in 9..246: neither a request command nor a response code (R58, R62, R63). -/
  | noFrame (b0 : Byte)
deriving DecidableEq, Repr

end Sys2Proof
end

