-- ==== Sys2Proof/WellFormed.lean ====
section
/-!
DEFINITION. When a term of Instr is an instruction as its rule of the spec writes it.
-/

namespace Sys2Proof

/-- Every operand is a byte, eight booleans or a frame, checked by its type; the one further condition is `GETPORT`'s: "format REQ with byte
0 = 0x02 and data 0" (42_wire_commands.md R122). A request frame of command 2 with other data is still a frame REQ.ENCODE makes (R51, R102), so
it decodes and runs: log entry 6. -/
def Instr.wellFormed : Instr → Bool
  | .getport _ data => data == 0
  | _ => true

end Sys2Proof
end

