-- ==== Sys2Proof/Decode.lean ====
section
/-!
DEFINITION. The maps of 30_encoding.md, the checksum, the bit layout of frames and ports, the decoder, total on any word and rejecting by
name, and after it the encoder, written from the same tables.
-/

namespace Sys2Proof

/-- The request checksum: the exclusive or of the first three bytes (41_frame_codec.md R100). -/
def chk (c a d : Byte) : Byte := c ^^^ a ^^^ d

/-- Byte 0 is one of the nine request commands 0..8 (30_encoding.md R55). -/
def isReqCommand (b : Byte) : Bool := b.toNat ≤ 8

/-- Byte 0 is one of the nine response codes 247..255 (R56, R57). -/
def isRspCode (b : Byte) : Bool := 247 ≤ b.toNat

/-- The response code that answers a request command: 255 - c (R57). -/
def rspCodeOf (c : Byte) : Byte := 255 - c

/-- The request command that a response code answers: 255 - r (R57). -/
def cmdOfRspCode (r : Byte) : Byte := 255 - r

/-- The bytes of a frame in wire order, position 0 first (20_memory.md R33, R35). -/
def Frame.bytes (f : Frame) : List Byte := [f.code, f.address, f.data, f.checksum]

/-- The request frame of a command: byte 3 is computed, never supplied (30_encoding.md R51, R61). -/
def requestFrame (command address data : Byte) : Frame :=
  ⟨command, address, data, chk command address data⟩

/-- `fromByte`: port `i` is bit `i` of the byte, least significant bit first (40_relay_state_codec.md R80). -/
def fromByte (b : Byte) : Ports :=
  ⟨b.getLsbD 0, b.getLsbD 1, b.getLsbD 2, b.getLsbD 3, b.getLsbD 4, b.getLsbD 5, b.getLsbD 6, b.getLsbD 7⟩

/-- The weight of port `i`, 2^i, when it is true (R53, R81). -/
def portWeight (p : Bool) (i : Nat) : Byte := if p then 1#8 <<< i else 0#8

/-- `toByte`: the byte whose bit `i` is port `i` (40_relay_state_codec.md R81, R84). -/
def toByte (p : Ports) : Byte :=
  portWeight p.port0 0 ||| portWeight p.port1 1 ||| portWeight p.port2 2 ||| portWeight p.port3 3 |||
    portWeight p.port4 4 ||| portWeight p.port5 5 ||| portWeight p.port6 6 ||| portWeight p.port7 7

/-- The operation of a select code, its operands read off the operand ports (30_encoding.md table T70, table T71; the order of the ports is
log entry 3). A port the operation has no operand on is not read. -/
def decodeOp (sel p0 p1 p2 p3 : Byte) : Except Reject Instr :=
  match sel.toNat with
  | 0 => .ok (.rsFromByte p0)
  | 1 => .ok (.rsToByte (fromByte p0))
  | 2 => .ok (.rsMake (fromByte p0) p1)
  | 3 => .ok (.rsOnehot p0 p1)
  | 4 => .ok (.reqEncode p0 p1 p2)
  | 5 => .ok (.rspDecode ⟨p0, p1, p2, p3⟩)
  | 6 => .ok .rspClass
  | 7 => .ok .rspState
  | _ => .error (.noOperation sel)

/-- The request command or response code of a frame (tables T55 and T56). The checksum byte of a request is not read: it is "always
recomputed, never trusted from caller input" (10_state.md R17; log entry 5). -/
def decodeFrame (f : Frame) : Except Reject Instr :=
  match f.code.toNat with
  | 0 => .ok (.nop f.address f.data)
  | 1 => .ok (.setup f.address f.data)
  | 2 => .ok (.getport f.address f.data)
  | 3 => .ok (.setport f.address f.data)
  | 4 => .ok (.getoption f.address f.data)
  | 5 => .ok (.setoption f.address f.data)
  | 6 => .ok (.setsingle f.address f.data)
  | 7 => .ok (.delsingle f.address f.data)
  | 8 => .ok (.toggle f.address f.data)
  | 255 => .ok (.rNop f.address f.data f.checksum)
  | 254 => .ok (.rSetup f.address f.data f.checksum)
  | 253 => .ok (.rGetport f.address f.data f.checksum)
  | 252 => .ok (.rSetport f.address f.data f.checksum)
  | 251 => .ok (.rGetoption f.address f.data f.checksum)
  | 250 => .ok (.rSetoption f.address f.data f.checksum)
  | 249 => .ok (.rSetsingle f.address f.data f.checksum)
  | 248 => .ok (.rDelsingle f.address f.data f.checksum)
  | 247 => .ok (.rToggle f.address f.data f.checksum)
  | _ => .error (.noFrame f.code)

/-- The decoder: total on every word, rejecting by name. -/
def decode : IssueWord → Except Reject Instr
  | .op sel p0 p1 p2 p3 => decodeOp sel p0 p1 p2 p3
  | .frame f => decodeFrame f

/-- The encoder: the word of an instruction, from tables T51, T52, T55, T56, T70 and T71. An operand port that is not used is 0. -/
def encode : Instr → IssueWord
  | .nop a d => .frame (requestFrame 0x00 a d)
  | .setup a d => .frame (requestFrame 0x01 a d)
  | .getport a d => .frame (requestFrame 0x02 a d)
  | .setport a d => .frame (requestFrame 0x03 a d)
  | .getoption a d => .frame (requestFrame 0x04 a d)
  | .setoption a d => .frame (requestFrame 0x05 a d)
  | .setsingle a d => .frame (requestFrame 0x06 a d)
  | .delsingle a d => .frame (requestFrame 0x07 a d)
  | .toggle a d => .frame (requestFrame 0x08 a d)
  | .rNop a d k => .frame ⟨0xFF, a, d, k⟩
  | .rSetup a d k => .frame ⟨0xFE, a, d, k⟩
  | .rGetport a d k => .frame ⟨0xFD, a, d, k⟩
  | .rSetport a d k => .frame ⟨0xFC, a, d, k⟩
  | .rGetoption a d k => .frame ⟨0xFB, a, d, k⟩
  | .rSetoption a d k => .frame ⟨0xFA, a, d, k⟩
  | .rSetsingle a d k => .frame ⟨0xF9, a, d, k⟩
  | .rDelsingle a d k => .frame ⟨0xF8, a, d, k⟩
  | .rToggle a d k => .frame ⟨0xF7, a, d, k⟩
  | .rsFromByte b => .op 0x0 b 0 0 0
  | .rsToByte p => .op 0x1 (toByte p) 0 0 0
  | .rsMake p a => .op 0x2 (toByte p) a 0 0
  | .rsOnehot a k => .op 0x3 a k 0 0
  | .reqEncode c a d => .op 0x4 c a d 0
  | .rspDecode f => .op 0x5 f.code f.address f.data f.checksum
  | .rspClass => .op 0x6 0 0 0 0
  | .rspState => .op 0x7 0 0 0 0

/-- Two words are of the same row of the opcode table: they agree in the bits the row fixes (the select, or byte 0 of the frame). -/
def IssueWord.sameRow : IssueWord → IssueWord → Bool
  | .op sel _ _ _ _, .op sel' _ _ _ _ => sel == sel'
  | .frame f, .frame g => f.code == g.code
  | _, _ => false

/-- How many operand ports the operation of a select code has (table T71). -/
def operandCount (sel : Byte) : Nat :=
  match sel.toNat with
  | 0 => 1
  | 1 => 1
  | 2 => 2
  | 3 => 2
  | 4 => 3
  | 5 => 4
  | _ => 0

/-- The word of the same instruction in which what the decoder does not read is as the encoder writes it: unused operand ports 0, the checksum of a
request computed. -/
def IssueWord.canonical : IssueWord → IssueWord
  | .op sel p0 p1 p2 p3 =>
    .op sel (if 1 ≤ operandCount sel then p0 else 0) (if 2 ≤ operandCount sel then p1 else 0)
      (if 3 ≤ operandCount sel then p2 else 0) (if 4 ≤ operandCount sel then p3 else 0)
  | .frame f => if isReqCommand f.code then .frame (requestFrame f.code f.address f.data) else .frame f

/-- Byte `i` of a number, byte 0 least significant. -/
def numByte (w i : Nat) : Byte := BitVec.ofNat 8 (w / 256 ^ i)

/-- The word whose bits, numbered as the opcode table numbers them, are `w`. A 32-bit row is a frame with byte 0 of the wire in bits 31..24
(00_scope.md R9); any other row is an operation word, its select in the first byte and its operand ports in the bytes after it. -/
def tableWord (nbits w : Nat) : IssueWord :=
  if nbits = 32 then .frame ⟨numByte w 3, numByte w 2, numByte w 1, numByte w 0⟩
  else .op (numByte w 0) (numByte w 1) (numByte w 2) (numByte w 3) (numByte w 4)

/-- The instruction the decoder reads from the bits `w` of a row of the opcode table. -/
def decodeTableWord (nbits w : Nat) : Option Instr :=
  match decode (tableWord nbits w) with
  | .ok i => some i
  | .error _ => none

end Sys2Proof
end

