-- ==== Sys2Proof/Config.lean ====
section
/-!
DEFINITION. The parameters of table P (00_scope.md R7, R8) and the free values: the oracle BOARD (42_wire_commands.md R149,
92_eei_decisions.md D18) and the operand a doubly wrong RS.ONEHOT names (93_implementation_defined.md U16). The free values are
opaque: nothing proved about the machine can rest on what they are.
-/

namespace Sys2Proof

/-- `N_PORTS`: relay outputs per board (R2, R7, R87). -/
def Config.nPorts : Nat := 8

/-- `BYTE_BITS` (R7). -/
def Config.byteBits : Nat := 8

/-- `FRAME_LEN`: bytes of a frame (R2, R7, R50). -/
def Config.frameLen : Nat := 4

/-- `N_REQ_CMDS`: request commands, values 0..8 (R7, R55). -/
def Config.nReqCmds : Nat := 9

/-- `N_RSP_CODES`: response codes, values 247..255 (R7, R56). -/
def Config.nRspCodes : Nat := 9

/-- `ADDR_MIN`: the lowest board address; 0 is reserved (R7, R31). -/
def Config.addrMin : Nat := 1

/-- `ADDR_MAX` (R7, R31). -/
def Config.addrMax : Nat := 255

/-- `BAUD`; environment, read by no rule of the model (R7, R8, R212). -/
def Config.baud : Nat := 19200

/-- `DATA_BITS`; environment, read by no rule of the model (R7). -/
def Config.dataBits : Nat := 8

/-- The parity setting of the line. The spec names one value only, "no parity" (R7, R212). -/
inductive Parity where
  | none
deriving DecidableEq, Repr

/-- `PARITY`; environment, read by no rule of the model (R7, R212). -/
def Config.parity : Parity := .none

/-- `STOP_BITS`; environment, read by no rule of the model (R7). -/
def Config.stopBits : Nat := 1

/-- `PORT_NAME`, "supplied by the caller, e.g., a platform device path" (R7, R29): open, so a free value with no body. Which port the transport
opens is the caller's, and no rule of the model reads it. Log entry 24. -/
opaque Config.portName : String

/-- `SETTLE_MS`: the wait before a frame read; the model has no time (R7, R205, R214). -/
def Config.settleMs : Nat := 20

/-- `SETUP_TRIES`: at most this many setup bytes in step 2 of INIT (R7, R189). -/
def Config.setupTries : Nat := 4

/-- `SETUP_GAP_MS`; the model has no time (R7, R189, R214). -/
def Config.setupGapMs : Nat := 5

/-- `SETUP_STOP_BYTES`: step 2 of INIT stops early when more bytes than this are buffered (R7, R189). -/
def Config.setupStopBytes : Nat := 3

/-- `CHAIN_WAIT_MS`, used twice; the model has no time (R7, R190, R192, R214). -/
def Config.chainWaitMs : Nat := 1023

/-- `SYNC_COUNT`: synchronisation bytes of step 4 of INIT (R7, R191). -/
def Config.syncCount : Nat := 4

/-- `CHUNK_ATTEMPTS`: at most this many chunk reads in step 6 of INIT (R7, R193). -/
def Config.chunkAttempts : Nat := 256

/-- What the link and the boards do during one step of an exchange or of INIT. Any value is possible: the document says nothing that
constrains it (R149, R151, N4, N10; log entries 9, 11, 14). -/
structure LinkEvent where
  /-- The transport operation of this step fails: an open, read or write failure, TransportError (R149, R164). -/
  failed : Bool
  /-- How many of the bytes of a failing write had gone out (95_test_vectors.md P5 row 3: "sent or partly sent"). -/
  wrote : Nat
  /-- The bytes that came into the input buffer since the last step. -/
  arrived : List Byte
  /-- What a chunk read of INIT does when fewer than 4 bytes are buffered (U15, N10): `none`, it goes on waiting; `some n`, the attempt is
  over without a chunk, the first `n` buffered bytes having been taken. -/
  shortRead : Option Nat
deriving DecidableEq, Repr, Inhabited

/-- The oracle BOARD (R149, R151, D18): what the link does at its `n`-th turn, after the bytes `sent` have been written on the line. A free
value with no body: a statement about the machine holds for every oracle. Log entry 9. -/
opaque Config.board (n : Nat) (sent : List Byte) : LinkEvent

/-- Whether, at the `n`-th step during a call in progress, the next operation of another host is run before the call's own turn (R216, table T216: "at any
time"; no rule orders hosts, U14). A free value. Log entry 10. -/
opaque Config.othersFirst (n : Nat) : Bool

/-- The operand that the ConfigurationError of `RS.ONEHOT` records when the address and the port index are both out of range: "no meaning a
host can rely on" (R86, U16: any value). A free value. Log entry 8. -/
opaque Config.onehotOperand (address portIndex : Byte) : Byte

end Sys2Proof
end

