-- ==== Sys2Proof/Machine/State.lean ====
section
/-!
DEFINITION. The state of the machine as plain data: the block's two frame registers with their valid bits (10_state.md R10), the results and
errors handed back (70_reset_and_hazards.md R217), the calls the hosts have issued, and the environment of the block that the spec
describes (10_state.md R27): the transport and the controller's marks. The block has no memory, no program counter, no flags and no mode
(R24, R25, R26, R30, R175).
-/

namespace Sys2Proof.Machine

/-- A frame register with its valid bit (10_state.md R16). `empty` is valid bit 0: the register "has no readable contents: a model must not
give them a value, zero included". Log entry 1. -/
inductive FrameReg where
  | empty
  | holding (f : Frame)
deriving DecidableEq, Repr

/-- The name of a frame register, as NoValue records it (60_exceptions.md R163). -/
inductive RegName where
  | req
  | rsp
deriving DecidableEq, Repr

/-- The errors an operation or a call can end with (60_exceptions.md R160 to R164), each with the value it records. -/
inductive Err where
  /-- ConfigurationError: the offending operand (R161). -/
  | configuration (operand : Byte)
  /-- DecodeError: the offending byte 0 (R162). -/
  | decode (b0 : Byte)
  /-- NoValue: the register that holds nothing (R163). -/
  | noValue (r : RegName)
  /-- TransportError (R164). DESIGN CHOICE, log entry 25: the spec's summary table says "not stated" of the value recorded with it, and the model
  records none. -/
  | transport
deriving DecidableEq, Repr

/-- What a host gets back: one result or one error for each operation or call it issued (30_encoding.md table T71, 42_wire_commands.md R147,
70_reset_and_hazards.md table T216). -/
inductive Handed where
  /-- The 8 booleans of `RS.FROMBYTE`. -/
  | ports (p : Ports)
  /-- The byte of `RS.TOBYTE`. -/
  | byte (b : Byte)
  /-- The RelayState of `RS.MAKE`, `RS.ONEHOT`, `RSP.STATE`. -/
  | relayState (r : RelayState)
  /-- The frame of `REQ.ENCODE`. -/
  | request (f : Frame)
  /-- The four fields of `RSP.DECODE`. -/
  | response (f : Frame)
  /-- The command 0..8 of `RSP.CLASS`. -/
  | command (c : Byte)
  /-- The 4 bytes of an exchange issued by itself (R149). -/
  | linkBytes (f : Frame)
  /-- The composite result of a pseudo-instruction: the raw response frame and, where applicable, the decoded RelayState (R147). -/
  | composite (response : Frame) (decoded : Option RelayState)
  /-- The detected count of `INIT`, -1..255 (R196). -/
  | count (n : Int)
  /-- The operation or call ended with an error. -/
  | error (e : Err)
deriving DecidableEq, Repr

/-- What a host can issue (70_reset_and_hazards.md R216, table T216; 30_encoding.md table T73). -/
inductive Call where
  /-- An instruction of the opcode table, as a word, issued by a host that keeps its duties (R216): if it writes a frame register it waits for the
  exclusive section (R48); if not, it may run at any time, "in or out of an exclusive section" (table T216). -/
  | word (w : IssueWord)
  /-- An instruction issued by a host that breaks the duty to hold the exclusive section: it may run at any time, also between the steps of another
  host's call, and gets no error for it (R200, R216). -/
  | unguarded (w : IssueWord)
  /-- `LinkExchange` by itself: the link reads `REQ` (42_wire_commands.md R149). -/
  | linkExchange
  /-- `CMD.SETPORT state` (R141). -/
  | cmdSetPort (state : RelayState)
  /-- `CMD.GETPORT address` (R142). -/
  | cmdGetPort (address : Byte)
  /-- `CMD.SETSINGLE state` (R143). -/
  | cmdSetSingle (state : RelayState)
  /-- `CMD.DELSINGLE state` (R144). -/
  | cmdDelSingle (state : RelayState)
  /-- `CMD.TOGGLE state` (R145). -/
  | cmdToggle (state : RelayState)
  /-- `CMD.TOGGLE1 address, portIndex` (R146). -/
  | cmdToggle1 (address portIndex : Byte)
  /-- `INIT`, the chain-discovery handshake (R188 to R196). -/
  | init
deriving DecidableEq, Repr

/-- Who runs an exchange: a host by itself, or a pseudo-instruction, which decodes a RelayState at its end or not (R147). -/
inductive Purpose where
  | raw
  | command (wantsState : Bool)
deriving DecidableEq, Repr

/-- How far INIT has come (70_reset_and_hazards.md section 3). -/
inductive InitPhase where
  /-- Step 1 is next: open the transport, discard input (R188). -/
  | opening
  /-- Step 2 with `k` setup bytes sent (R189). -/
  | setup (k : Nat)
  /-- Step 3: the first long wait (R190). -/
  | chainWait
  /-- Step 4 with `k` synchronisation bytes sent (R191). -/
  | sync (k : Nat)
  /-- Step 5: the second long wait (R192). -/
  | syncWait
  /-- Step 6 with `k` chunk reads made (R193). -/
  | scan (k : Nat)
  /-- Steps 7 and 8 with the count found (R195, R196). -/
  | closing (count : Int)
deriving DecidableEq, Repr

/-- The call in progress: it holds the exclusive section (20_memory.md R42, R48). The steps of a pseudo-instruction are those of
42_wire_commands.md R140; step 1, the validation, is made when the call is begun. -/
inductive Activity where
  /-- Step 2: encode the request. -/
  | encode (command address data : Byte) (wantsState : Bool)
  /-- Step 3, the exchange: open the channel. -/
  | openLink (p : Purpose)
  /-- Step 3: write the 4 bytes of `REQ`. -/
  | writeFrame (p : Purpose)
  /-- Step 3: wait for 4 bytes and read them. -/
  | readFrame (p : Purpose)
  /-- Step 4: decode the 4 bytes read. -/
  | decodeResponse (g : Frame) (wantsState : Bool)
  /-- Step 5: decode the RelayState of the response `r`. -/
  | decodeState (r : Frame)
  /-- The handshake. -/
  | handshake (ph : InitPhase)
deriving DecidableEq, Repr

/-- The transport (R27c, R27e): whether its channel is open, its input buffer, and every byte written on the line so far, oldest first. -/
structure Line where
  channelOpen : Bool
  input : List Byte
  sent : List Byte
deriving DecidableEq, Repr

/-- The state of the machine. INVENTORY.md lists each field with the rule that names it and its reset value. -/
structure State where
  /-- `REQ` and `REQ_V` (R15 to R18). -/
  req : FrameReg
  /-- `RSP` and `RSP_V` (R19 to R22). -/
  rsp : FrameReg
  /-- The calls issued and not begun, in the order in which they begin, which is any order (R43, U14). -/
  pending : List Call
  /-- The call in progress; some call holds the exclusive section, none leaves it free (R27e, R42). -/
  active : Option Activity
  /-- The results and errors handed back, oldest first (R217). -/
  handed : List Handed
  /-- The transport (R27c, R27e). -/
  line : Line
  /-- The controller's `initialized` mark (R27d, R196). -/
  initialized : Bool
  /-- The controller's detected count (R27d, R165, R196). -/
  detectedCount : Int
  /-- The model's own counter of the oracle's turns (log entry 9). -/
  draws : Nat
deriving DecidableEq, Repr

/-- No operation of this block stops the machine with a fault: an error is the outcome of the operation that raised it and the next operation
runs normally (60_exceptions.md R172), so there is no reason to name. -/
inductive Fault where
deriving DecidableEq, Repr

/-- Why the machine refuses to go on. -/
inductive Refusal where
  /-- Raised by `exec` for an instruction without a meaning; no arm of it does so now. Safe. -/
  | notModelled (mnemonic : String)
  /-- Raised by `step` when the issued operation select is none of 0x0 to 0x7: "a bit-level model refuses it" (R70, U17). Safe. -/
  | noSuchOperation (sel : Byte)
  /-- Raised by `step` when byte 0 of an issued frame word is in 9..246, which is neither a request command nor a response code (R58). Safe. -/
  | noSuchFrame (b0 : Byte)
deriving DecidableEq, Repr

/-- The state after reset: both valid bits 0 (10_state.md R28, 70_reset_and_hazards.md R185), `initialized` false (R186), the detected count -1
(R165; log entry 15); the rest of the environment as log entries 2, 7, 9 and 16 say. -/
def State.reset : State where
  req := .empty
  rsp := .empty
  pending := []
  active := none
  handed := []
  line := { channelOpen := false, input := [], sent := [] }
  initialized := false
  detectedCount := -1
  draws := 0

end Sys2Proof.Machine
end

