-- ==== Sys2Proof/Machine/Flags.lean ====
section
/-!
DEFINITION. The block has no flags or condition codes (10_state.md R26); its only status bits are the two valid bits, read here, and the
numeric outcome codes of 60_exceptions.md R166.
-/

namespace Sys2Proof.Machine

/-- The valid bit of a frame register (10_state.md R16). -/
def FrameReg.valid : FrameReg → Bool
  | .empty => false
  | .holding _ => true

/-- `REQ_V` (R16). -/
def State.reqV (s : State) : Bool := s.req.valid

/-- `RSP_V` (R16). -/
def State.rspV (s : State) : Bool := s.rsp.valid

/-- Whether a caller owns the exclusive section (10_state.md R27e, 20_memory.md R42). -/
def State.sectionHeld (s : State) : Bool := s.active.isSome

/-- The run is over: nothing issued is outstanding and no exchange is pending (70_reset_and_hazards.md R217). -/
def State.runOver (s : State) : Bool := s.pending.isEmpty && s.active.isNone

/-- The numeric code of an error (60_exceptions.md R166; the numbers are the spec's own, D10). -/
def Err.code : Err → Nat
  | .configuration _ => 1
  | .decode _ => 2
  | .noValue _ => 3
  | .transport => 4

/-- The numeric code of an outcome: 0 is OK (R166). -/
def Handed.code : Handed → Nat
  | .error e => e.code
  | _ => 0

end Sys2Proof.Machine
end

