-- ==== Sys2Proof/Machine/Operands.lean ====
section
/-!
DEFINITION. The operand forms: relay states and masks (40_relay_state_codec.md), the registers an instruction writes (30_encoding.md
table T71), and the checks of a caller's operands (60_exceptions.md R161).
-/

namespace Sys2Proof

/-- The instructions that write `REQ` and `REQ_V`: the request commands and `REQ.ENCODE` (10_state.md R10, 30_encoding.md table T71). -/
def Instr.writesReq : Instr → Bool
  | .nop _ _ | .setup _ _ | .getport _ _ | .setport _ _ | .getoption _ _ | .setoption _ _ | .setsingle _ _ | .delsingle _ _ | .toggle _ _ => true
  | .reqEncode _ _ _ => true
  | .rNop _ _ _ | .rSetup _ _ _ | .rGetport _ _ _ | .rSetport _ _ _ | .rGetoption _ _ _ | .rSetoption _ _ _ | .rSetsingle _ _ _
  | .rDelsingle _ _ _ | .rToggle _ _ _ => false
  | .rsFromByte _ | .rsToByte _ | .rsMake _ _ | .rsOnehot _ _ | .rspDecode _ | .rspClass | .rspState => false

/-- The instructions that write `RSP` and `RSP_V`: the response frames and `RSP.DECODE` (R10, table T71). -/
def Instr.writesRsp : Instr → Bool
  | .nop _ _ | .setup _ _ | .getport _ _ | .setport _ _ | .getoption _ _ | .setoption _ _ | .setsingle _ _ | .delsingle _ _ | .toggle _ _ => false
  | .rNop _ _ _ | .rSetup _ _ _ | .rGetport _ _ _ | .rSetport _ _ _ | .rGetoption _ _ _ | .rSetoption _ _ _ | .rSetsingle _ _ _
  | .rDelsingle _ _ _ | .rToggle _ _ _ => true
  | .rspDecode _ => true
  | .rsFromByte _ | .rsToByte _ | .rsMake _ _ | .rsOnehot _ _ | .reqEncode _ _ _ | .rspClass | .rspState => false

end Sys2Proof

namespace Sys2Proof.Machine

/-- Port `i`, relay `i + 1` (20_memory.md R34). -/
def portAt (p : Ports) (i : Fin 8) : Bool :=
  match i with
  | 0 => p.port0
  | 1 => p.port1
  | 2 => p.port2
  | 3 => p.port3
  | 4 => p.port4
  | 5 => p.port5
  | 6 => p.port6
  | 7 => p.port7

/-- A Boolean operation taken port by port (40_relay_state_codec.md R88). -/
def portwise (op : Bool → Bool → Bool) (p q : Ports) : Ports :=
  ⟨op p.port0 q.port0, op p.port1 q.port1, op p.port2 q.port2, op p.port3 q.port3,
    op p.port4 q.port4, op p.port5 q.port5, op p.port6 q.port6, op p.port7 q.port7⟩

/-- The port-wise negation (R88). -/
def portNot (p : Ports) : Ports :=
  ⟨!p.port0, !p.port1, !p.port2, !p.port3, !p.port4, !p.port5, !p.port6, !p.port7⟩

/-- The ports in which only the one of index `k` is true (40_relay_state_codec.md R86). -/
def onlyPort (k : Byte) : Ports :=
  ⟨k == 0, k == 1, k == 2, k == 3, k == 4, k == 5, k == 6, k == 7⟩

/-- Address 0 is out of range where a caller supplies it for a board (10_state.md R13, 60_exceptions.md R161). -/
def addressRefused (address : Byte) : Bool := address == 0

/-- A port index is in 0..7 (20_memory.md R34, R86). -/
def portIndexRefused (portIndex : Byte) : Bool := 7 < portIndex.toNat

/-- The operand an `RS.ONEHOT` refuses, if it refuses one. When both are out of range the error names an operand no host can rely on
(R86, U16): a free value, log entry 8. -/
def onehotOffence (address portIndex : Byte) : Option Byte :=
  if addressRefused address then
    if portIndexRefused portIndex then some (Config.onehotOperand address portIndex) else some address
  else if portIndexRefused portIndex then some portIndex
  else none

/-- The detected count reported by the second byte of a setup echo: 0 stands for 255 boards, else the value less one (70_reset_and_hazards.md
R194, R196). -/
def detectedCountOf (r : Byte) : Int := if r = 0 then 255 else (r.toNat : Int) - 1

/-- A 4-byte chunk is a setup echo when its first byte is 1 (30_encoding.md R54, R193). -/
def isSetupEcho (b0 : Byte) : Bool := b0 == 1

/-- A response frame's checksum is the exclusive or of its first three bytes (41_frame_codec.md R109). For stating tests and claims only: the
block never evaluates it (R105). -/
def checksumConsistent (f : Frame) : Bool := f.checksum == chk f.code f.address f.data

end Sys2Proof.Machine
end

