-- ==== Sys2Proof/Machine/Ops.lean ====
section
/-!
DEFINITION. The named operations over the state: handing back a result, raising an error (the one shared operation by which an operation or a
call ends with an error; there is no return from it, 60_exceptions.md R172), the two writers and the two readers of the frame registers, and the
moves of the call in progress and of the transport.
-/

namespace Sys2Proof.Machine

/-- Hand a result or an error back to the host (70_reset_and_hazards.md R217). -/
def State.handBack (s : State) (h : Handed) : State := { s with handed := s.handed ++ [h] }

/-- Write `REQ` and `REQ_V`. -/
def State.setReq (s : State) (r : FrameReg) : State := { s with req := r }

/-- Write `RSP` and `RSP_V`. -/
def State.setRsp (s : State) (r : FrameReg) : State := { s with rsp := r }

/-- Replace the calls issued and not begun. -/
def State.setPending (s : State) (cs : List Call) : State := { s with pending := cs }

/-- Move the call in progress on. -/
def State.setActive (s : State) (a : Option Activity) : State := { s with active := a }

/-- Write the transport's state. -/
def State.setLine (s : State) (l : Line) : State := { s with line := l }

/-- Write the controller's detected count and `initialized` mark: "Mark initialized if detected-count ≥ 1" (R196). -/
def State.setCount (s : State) (n : Int) : State := { s with initialized := decide (1 ≤ n), detectedCount := n }

/-- One turn of the oracle is over (log entry 9). -/
def State.nextDraw (s : State) : State := { s with draws := s.draws + 1 }

/-- TAKING AN ERROR. It saves nothing and transfers control nowhere (60_exceptions.md R170): the operation or call ends and the error is handed
back. What a failing writer clears, the writer has cleared before. -/
def State.raise (s : State) (e : Err) : State := s.handBack (.error e)

/-- The body of `REQ.ENCODE` (41_frame_codec.md R102): the register write, and the frame or the error. -/
def encodeRequest (command address data : Byte) (s : State) : State × Except Err Frame :=
  if isReqCommand command then
    (s.setReq (.holding (requestFrame command address data)), .ok (requestFrame command address data))
  else (s.setReq .empty, .error (.configuration command))

/-- The body of `RSP.DECODE` (41_frame_codec.md R104): the register write, and the four fields or the error. Nothing but byte 0 is looked at
(R105). -/
def decodeResponse (f : Frame) (s : State) : State × Except Err Frame :=
  if isRspCode f.code then (s.setRsp (.holding f), .ok f)
  else (s.setRsp .empty, .error (.decode f.code))

/-- The contents of `RSP`, refused with NoValue when `RSP_V` is 0 (10_state.md R16, 60_exceptions.md R163). -/
def readRsp (s : State) : Except Err Frame :=
  match s.rsp with
  | .empty => .error (.noValue .rsp)
  | .holding f => .ok f

/-- The contents of `REQ`, refused with NoValue when `REQ_V` is 0 (R16, R163): the link reads it to send it. -/
def readReq (s : State) : Except Err Frame :=
  match s.req with
  | .empty => .error (.noValue .req)
  | .holding f => .ok f

/-- The RelayState of a response: its data byte decoded, with the response's own address (41_frame_codec.md R107). -/
def relayStateOf (f : Frame) : RelayState := ⟨fromByte f.data, f.address⟩

/-- The end of an operation of the block: its result, or its error, is handed back. -/
def finish (result : Except Err Handed) (s : State) : Host.Outcome State Fault Refusal :=
  match result with
  | .ok h => .next (s.handBack h)
  | .error e => .next (s.raise e)

/-- `REQ.ENCODE` as a host issues it (R102). -/
def issueEncode (command address data : Byte) (s : State) : Host.Outcome State Fault Refusal :=
  finish ((encodeRequest command address data s).2.map .request) (encodeRequest command address data s).1

/-- `RSP.DECODE` as a host issues it (R104). -/
def issueDecode (f : Frame) (s : State) : Host.Outcome State Fault Refusal :=
  finish ((decodeResponse f s).2.map .response) (decodeResponse f s).1

/-- The call in progress is over and hands back its result: the exclusive section is left (20_memory.md R42). -/
def State.complete (s : State) (h : Handed) : State := (s.setActive none).handBack h

/-- The call in progress ends with an error: nothing is retried and the exclusive section is left (60_exceptions.md R171). -/
def State.abort (s : State) (e : Err) : State := (s.setActive none).raise e

/-- Bytes go out on the line, in order (42_wire_commands.md R149). -/
def Line.write (l : Line) (bs : List Byte) : Line := { l with sent := l.sent ++ bs }

/-- Bytes come into the input buffer. -/
def Line.receive (l : Line) (bs : List Byte) : Line := { l with input := l.input ++ bs }

/-- The input buffer is replaced: by what is left of it, or by nothing (20_memory.md R41). -/
def Line.setInput (l : Line) (bs : List Byte) : Line := { l with input := bs }

/-- The channel is opened; what the buffer then holds is not in the document (70_reset_and_hazards.md R186): log entry 11. -/
def Line.openWith (l : Line) (stale : List Byte) : Line := { l with channelOpen := true, input := stale }

/-- The channel is closed, as it is "on every exit path" (42_wire_commands.md R149). -/
def Line.close (l : Line) : Line := { l with channelOpen := false }

/-- The channel is closed and the input still buffered is discarded (20_memory.md R41). -/
def Line.flushClose (l : Line) : Line := { l with channelOpen := false, input := [] }

/-- A transport operation failed after `bs` had gone out: the channel is closed and the call ends with TransportError, with no retry
(60_exceptions.md R164). `REQ` and `RSP` stay as they are. -/
def State.transportFailure (s : State) (bs : List Byte) : State :=
  (s.setLine ((s.line.write bs).close)).abort .transport

end Sys2Proof.Machine
end

