-- ==== Sys2Proof/Machine/RelayCodec.lean ====
section
/-!
DEFINITION. The RelayState codec operations RS.FROMBYTE, RS.TOBYTE, RS.MAKE, RS.ONEHOT (40_relay_state_codec.md). None reads or writes a
register.
-/

namespace Sys2Proof.Machine

/-- `RS.FROMBYTE b` (R83): never fails. -/
def execRsFromByte (b : Byte) (s : State) : Host.Outcome State Fault Refusal :=
  finish (.ok (.ports (fromByte b))) s

/-- `RS.TOBYTE ports` (R84): never fails. -/
def execRsToByte (ports : Ports) (s : State) : Host.Outcome State Fault Refusal :=
  finish (.ok (.byte (toByte ports))) s

/-- `RS.MAKE ports, address` (R85): ConfigurationError for address 0. -/
def execRsMake (ports : Ports) (address : Byte) (s : State) : Host.Outcome State Fault Refusal :=
  finish (if addressRefused address then .error (.configuration address) else .ok (.relayState ⟨ports, address⟩)) s

/-- The RelayState with only one port set, or the refused operand (R86). -/
def onehot (address portIndex : Byte) : Except Err RelayState :=
  match onehotOffence address portIndex with
  | some b => .error (.configuration b)
  | none => .ok ⟨onlyPort portIndex, address⟩

/-- `RS.ONEHOT address, portIndex` (R86): ConfigurationError for address 0 and for an index above 7. -/
def execRsOnehot (address portIndex : Byte) (s : State) : Host.Outcome State Fault Refusal :=
  finish ((onehot address portIndex).map .relayState) s

end Sys2Proof.Machine
end

