-- ==== Sys2Proof/Machine/Command.lean ====
section
/-!
DEFINITION. The pseudo-instructions, the controller's operations (42_wire_commands.md R140 to R148). All have one shape: validate the caller's
operands; encode the request; one exchange; decode the response; where the command returns a state, decode it. A step that raises an error ends
the call with it (60_exceptions.md R169, R171).
-/

namespace Sys2Proof.Machine

/-- Step 1 (R140, R148): an address of 0 is refused before any transport activity; else the exclusive section is entered with the request
to be encoded next. Whether INIT has run is not asked (D26). -/
def beginCommand (command address data : Byte) (wantsState : Bool) (s : State) : State :=
  if addressRefused address then s.raise (.configuration address)
  else s.setActive (some (.encode command address data wantsState))

/-- `CMD.SETPORT state` (R141): no state is decoded from its response. -/
def beginSetPort (r : RelayState) (s : State) : State := beginCommand 3 r.address (toByte r.ports) false s

/-- `CMD.GETPORT address` (R142). -/
def beginGetPort (address : Byte) (s : State) : State := beginCommand 2 address 0 true s

/-- `CMD.SETSINGLE state` (R143). -/
def beginSetSingle (r : RelayState) (s : State) : State := beginCommand 6 r.address (toByte r.ports) true s

/-- `CMD.DELSINGLE state` (R144). -/
def beginDelSingle (r : RelayState) (s : State) : State := beginCommand 7 r.address (toByte r.ports) true s

/-- `CMD.TOGGLE state` (R145). -/
def beginToggle (r : RelayState) (s : State) : State := beginCommand 8 r.address (toByte r.ports) true s

/-- `CMD.TOGGLE1 address, portIndex` (R146): RS.ONEHOT, then CMD.TOGGLE. -/
def beginToggle1 (address portIndex : Byte) (s : State) : State :=
  match onehot address portIndex with
  | .error e => s.raise e
  | .ok r => beginToggle r s

/-- Step 2: encode the request (R140). -/
def commandEncode (command address data : Byte) (wantsState : Bool) (s : State) : State :=
  match encodeRequest command address data s with
  | (t, .ok _) => t.setActive (some (.openLink (.command wantsState)))
  | (t, .error e) => t.abort e

/-- Step 4: decode the response. The raw frame is the whole result of a command that returns no state (R141, R147). -/
def commandDecode (g : Frame) (wantsState : Bool) (s : State) : State :=
  match decodeResponse g s with
  | (t, .ok f) => if wantsState then t.setActive (some (.decodeState f)) else t.complete (.composite f none)
  | (t, .error e) => t.abort e

/-- Step 5: decode the RelayState of `RSP` and hand back the composite result (R142, R147). -/
def commandState (r : Frame) (s : State) : State :=
  match readRsp s with
  | .ok f => s.complete (.composite r (some (relayStateOf f)))
  | .error e => s.abort e

end Sys2Proof.Machine
end

