-- ==== Sys2Proof/Machine/Handshake.lean ====
section
/-!
DEFINITION. INIT, the chain-discovery handshake (70_reset_and_hazards.md R188 to R199). It neither reads nor writes REQ or RSP (R199). The waits are
turns of the oracle, without a duration (R214).
-/

namespace Sys2Proof.Machine

/-- The byte the handshake sends: the request value of Setup (R189, R191). -/
def setupByte : Byte := 1

/-- The handshake moves on. -/
def State.setPhase (s : State) (ph : InitPhase) : State := s.setActive (some (.handshake ph))

/-- Step 1 (R188): open the transport, discard any stale input. -/
def initOpen (ev : LinkEvent) (s : State) : State :=
  if ev.failed then s.transportFailure []
  else (s.setLine (s.line.openWith [])).setPhase (.setup 0)

/-- Step 2 (R189), with `k` bytes sent before: send one byte, wait, and leave the loop when more than 3 bytes are buffered or after the fourth. -/
def initSetup (ev : LinkEvent) (k : Nat) (s : State) : State :=
  if ev.failed then s.transportFailure ([setupByte].take ev.wrote)
  else
    (s.setLine ((s.line.write [setupByte]).receive ev.arrived)).setPhase
      (if Config.setupStopBytes < (s.line.input ++ ev.arrived).length ∨ Config.setupTries ≤ k + 1 then .chainWait
        else .setup (k + 1))

/-- Step 3 (R190). -/
def initChainWait (ev : LinkEvent) (s : State) : State :=
  (s.setLine (s.line.receive ev.arrived)).setPhase (.sync 0)

/-- Step 4 (R191), with `k` bytes sent before: exactly four synchronisation bytes. -/
def initSync (ev : LinkEvent) (k : Nat) (s : State) : State :=
  if ev.failed then s.transportFailure ([setupByte].take ev.wrote)
  else
    (s.setLine ((s.line.write [setupByte]).receive ev.arrived)).setPhase
      (if Config.syncCount ≤ k + 1 then .syncWait else .sync (k + 1))

/-- Step 5 (R192). -/
def initSyncWait (ev : LinkEvent) (s : State) : State :=
  (s.setLine (s.line.receive ev.arrived)).setPhase (.scan 0)

/-- An attempt of step 6 brought no setup echo: the next one, or the count -1 after the last (R193, R196). -/
def scanOn (k : Nat) : InitPhase :=
  if Config.chunkAttempts ≤ k + 1 then .closing (-1) else .scan (k + 1)

/-- Step 6 (R193, R194), with `k` attempts made before: read a 4-byte chunk; the first whose byte 0 is 1 ends the scan and its byte 1 gives the
count; bytes 2 and 3 are ignored. What the read does with fewer than 4 bytes is the oracle's (U15, N10; log entry 14). -/
def initScan (ev : LinkEvent) (k : Nat) (s : State) : State :=
  if ev.failed then s.transportFailure []
  else
    match s.line.input ++ ev.arrived with
    | b0 :: b1 :: _ :: _ :: rest =>
      (s.setLine (s.line.setInput rest)).setPhase (if isSetupEcho b0 then .closing (detectedCountOf b1) else scanOn k)
    | short =>
      match ev.shortRead with
      | none => s.setLine (s.line.setInput short)
      | some n => (s.setLine (s.line.setInput (short.drop n))).setPhase (scanOn k)

/-- Steps 7 and 8 (R195, R196): flush and close the transport, mark initialized, return the count. -/
def initClose (count : Int) (s : State) : State :=
  ((s.setLine s.line.flushClose).setCount count).complete (.count count)

/-- One turn of the handshake. -/
def handshakeTurn (ev : LinkEvent) (ph : InitPhase) (s : State) : State :=
  match ph with
  | .opening => initOpen ev s
  | .setup k => initSetup ev k s
  | .chainWait => initChainWait ev s
  | .sync k => initSync ev k s
  | .syncWait => initSyncWait ev s
  | .scan k => initScan ev k s
  | .closing count => initClose count s

end Sys2Proof.Machine
end

