-- ==== Sys2Proof/Machine/Link.lean ====
section
/-!
DEFINITION. LinkExchange, one request/response exchange on the transport (42_wire_commands.md R149), cut into the turns at which the link can act:
open the channel, write the 4 bytes of REQ, read 4 bytes. What the link does at a turn is a LinkEvent of the oracle BOARD.
-/

namespace Sys2Proof.Machine

/-- The 4 bytes read go to whoever runs the exchange. -/
def exchangeDone (p : Purpose) (g : Frame) (s : State) : State :=
  match p with
  | .raw => s.complete (.linkBytes g)
  | .command wantsState => s.setActive (some (.decodeResponse g wantsState))

/-- Open the channel. What the input buffer then holds is the oracle's (R186, log entry 11). -/
def linkOpen (ev : LinkEvent) (p : Purpose) (s : State) : State :=
  if ev.failed then s.transportFailure []
  else (s.setLine (s.line.openWith ev.arrived)).setActive (some (.writeFrame p))

/-- `writeFrame`: the contents of `REQ` with `REQ_V` = 1 go out in byte order 0..3 (R149); `REQ` keeps them (92_eei_decisions.md D29). A
failing write has sent some of them. -/
def linkWrite (ev : LinkEvent) (p : Purpose) (s : State) : State :=
  match readReq s with
  | .error e => (s.setLine s.line.close).abort e
  | .ok f =>
    if ev.failed then s.transportFailure (f.bytes.take ev.wrote)
    else (s.setLine ((s.line.write f.bytes).receive ev.arrived)).setActive (some (.readFrame p))

/-- `readFrame`: "blocks until 4 bytes are available"; the first 4 are taken, "any further buffered input bytes" are discarded and the channel is
closed (R149, 20_memory.md R41). With fewer than 4 bytes the exchange goes on waiting, for ever if no more come (70_reset_and_hazards.md R203). -/
def linkRead (ev : LinkEvent) (p : Purpose) (s : State) : State :=
  if ev.failed then s.transportFailure []
  else
    match s.line.input ++ ev.arrived with
    | b0 :: b1 :: b2 :: b3 :: _ => exchangeDone p ⟨b0, b1, b2, b3⟩ (s.setLine s.line.flushClose)
    | short => s.setLine (s.line.setInput short)

/-- A host asks for an exchange by itself: the link reads `REQ`, and refuses with NoValue when it holds nothing (60_exceptions.md R163). -/
def beginExchange (s : State) : State :=
  match readReq s with
  | .error e => s.raise e
  | .ok _ => s.setActive (some (.openLink .raw))

end Sys2Proof.Machine
end

