-- ==== Sys2Proof/Machine/Activity.lean ====
section
/-!
DEFINITION. One turn of the call in progress, which holds the exclusive section from its first step to its last (20_memory.md R42, R48).
-/

namespace Sys2Proof.Machine

/-- One turn of the call in progress, the link doing `ev` in it. The block's own steps do not look at `ev`. -/
def advanceWith (ev : LinkEvent) (a : Activity) (s : State) : State :=
  match a with
  | .encode command address data wantsState => commandEncode command address data wantsState s
  | .openLink p => linkOpen ev p s
  | .writeFrame p => linkWrite ev p s
  | .readFrame p => linkRead ev p s
  | .decodeResponse g wantsState => commandDecode g wantsState s
  | .decodeState r => commandState r s
  | .handshake ph => handshakeTurn ev ph s

/-- What the link does in the turn that begins in `s` (R149, R151, log entry 9). -/
def State.linkEvent (s : State) : LinkEvent := Config.board s.draws s.line.sent

/-- Turns of the call in progress with given deeds of the link and no other host's operation between them, until it is over or the list is. A step with
a call in progress is one such turn, with the oracle's event, or the operation of another host (Issue.lean, `duringCall`). -/
def turns : List LinkEvent → State → State
  | [], s => s
  | ev :: evs, s =>
    match s.active with
    | none => s
    | some a => turns evs (advanceWith ev a s.nextDraw)

end Sys2Proof.Machine
end

