-- ==== Sys2Proof/Machine/FrameCodec.lean ====
section
/-!
DEFINITION. The frame codec operations REQ.ENCODE, RSP.DECODE, RSP.CLASS, RSP.STATE (41_frame_codec.md).
-/

namespace Sys2Proof.Machine

/-- `REQ.ENCODE command, address, data` (R102): ConfigurationError for a command above 8, which clears `REQ_V`; neither the address nor the data
is checked. -/
def execReqEncode (command address data : Byte) (s : State) : Host.Outcome State Fault Refusal :=
  issueEncode command address data s

/-- `RSP.DECODE f` (R104): DecodeError for byte 0 below 247, which clears `RSP_V`; no other validation (R105). -/
def execRspDecode (f : Frame) (s : State) : Host.Outcome State Fault Refusal :=
  issueDecode f s

/-- `RSP.CLASS` (R106): the command the stored response code answers, or NoValue. -/
def execRspClass (s : State) : Host.Outcome State Fault Refusal :=
  finish ((readRsp s).map fun f => .command (cmdOfRspCode f.code)) s

/-- `RSP.STATE` (R107): the RelayState of the stored response, or NoValue; the code is not looked at. -/
def execRspState (s : State) : Host.Outcome State Fault Refusal :=
  finish ((readRsp s).map fun f => .relayState (relayStateOf f)) s

end Sys2Proof.Machine
end

