-- ==== Sys2Proof/Machine/Responses.lean ====
section
/-!
DEFINITION. The nine response codes (42_wire_commands.md R130 to R138). Each is a response frame given to RSP.DECODE, which stores it; RSP.CLASS
then names the command it answers. Address, data and checksum are raw (R19, R52, R105).
-/

namespace Sys2Proof.Machine

/-- `R.NOP` (R130). -/
def execRNop (address data checksum : Byte) (s : State) : Host.Outcome State Fault Refusal := issueDecode ⟨255, address, data, checksum⟩ s

/-- `R.SETUP` (R131). -/
def execRSetup (address data checksum : Byte) (s : State) : Host.Outcome State Fault Refusal := issueDecode ⟨254, address, data, checksum⟩ s

/-- `R.GETPORT` (R132). -/
def execRGetport (address data checksum : Byte) (s : State) : Host.Outcome State Fault Refusal := issueDecode ⟨253, address, data, checksum⟩ s

/-- `R.SETPORT` (R133). -/
def execRSetport (address data checksum : Byte) (s : State) : Host.Outcome State Fault Refusal := issueDecode ⟨252, address, data, checksum⟩ s

/-- `R.GETOPTION` (R134). -/
def execRGetoption (address data checksum : Byte) (s : State) : Host.Outcome State Fault Refusal := issueDecode ⟨251, address, data, checksum⟩ s

/-- `R.SETOPTION` (R135). -/
def execRSetoption (address data checksum : Byte) (s : State) : Host.Outcome State Fault Refusal := issueDecode ⟨250, address, data, checksum⟩ s

/-- `R.SETSINGLE` (R136). -/
def execRSetsingle (address data checksum : Byte) (s : State) : Host.Outcome State Fault Refusal := issueDecode ⟨249, address, data, checksum⟩ s

/-- `R.DELSINGLE` (R137). -/
def execRDelsingle (address data checksum : Byte) (s : State) : Host.Outcome State Fault Refusal := issueDecode ⟨248, address, data, checksum⟩ s

/-- `R.TOGGLE` (R138). -/
def execRToggle (address data checksum : Byte) (s : State) : Host.Outcome State Fault Refusal := issueDecode ⟨247, address, data, checksum⟩ s

end Sys2Proof.Machine
end

