-- ==== Sys2Proof/Machine/WireCommands.lean ====
section
/-!
DEFINITION. The nine request commands (42_wire_commands.md R120 to R128). Each builds its request frame: "Frame: REQ.ENCODE c, address, data". It
leaves the frame in REQ, from where the link sends it (LinkExchange, Machine/Link.lean); what a board does with it is the board's (log entries 4, 19).
-/

namespace Sys2Proof.Machine

/-- `NOP address, data` (R120). -/
def execNop (address data : Byte) (s : State) : Host.Outcome State Fault Refusal := issueEncode 0 address data s

/-- `SETUP address, data` (R121). -/
def execSetup (address data : Byte) (s : State) : Host.Outcome State Fault Refusal := issueEncode 1 address data s

/-- `GETPORT address` (R122), its data byte 0 as R122 writes it; other data is encoded as given (log entry 6). -/
def execGetport (address data : Byte) (s : State) : Host.Outcome State Fault Refusal := issueEncode 2 address data s

/-- `SETPORT address, data` (R123). -/
def execSetport (address data : Byte) (s : State) : Host.Outcome State Fault Refusal := issueEncode 3 address data s

/-- `GETOPTION address, data` (R124). -/
def execGetoption (address data : Byte) (s : State) : Host.Outcome State Fault Refusal := issueEncode 4 address data s

/-- `SETOPTION address, data` (R125). -/
def execSetoption (address data : Byte) (s : State) : Host.Outcome State Fault Refusal := issueEncode 5 address data s

/-- `SETSINGLE address, data` (R126). -/
def execSetsingle (address data : Byte) (s : State) : Host.Outcome State Fault Refusal := issueEncode 6 address data s

/-- `DELSINGLE address, data` (R127). -/
def execDelsingle (address data : Byte) (s : State) : Host.Outcome State Fault Refusal := issueEncode 7 address data s

/-- `TOGGLE address, data` (R128). -/
def execToggle (address data : Byte) (s : State) : Host.Outcome State Fault Refusal := issueEncode 8 address data s

end Sys2Proof.Machine
end

