-- ==== Sys2Proof/Machine/Dispatch.lean ====
section
/-!
DEFINITION. One arm per constructor of Instr, each one call of the instruction's meaning.
-/

namespace Sys2Proof.Machine

def exec (i : Instr) (s : State) : Host.Outcome State Fault Refusal :=
  match i with
  | .nop address data => Sys2Proof.Machine.execNop address data s
  | .setup address data => Sys2Proof.Machine.execSetup address data s
  | .getport address data => Sys2Proof.Machine.execGetport address data s
  | .setport address data => Sys2Proof.Machine.execSetport address data s
  | .getoption address data => Sys2Proof.Machine.execGetoption address data s
  | .setoption address data => Sys2Proof.Machine.execSetoption address data s
  | .setsingle address data => Sys2Proof.Machine.execSetsingle address data s
  | .delsingle address data => Sys2Proof.Machine.execDelsingle address data s
  | .toggle address data => Sys2Proof.Machine.execToggle address data s
  | .rNop address data checksum => Sys2Proof.Machine.execRNop address data checksum s
  | .rSetup address data checksum => Sys2Proof.Machine.execRSetup address data checksum s
  | .rGetport address data checksum => Sys2Proof.Machine.execRGetport address data checksum s
  | .rSetport address data checksum => Sys2Proof.Machine.execRSetport address data checksum s
  | .rGetoption address data checksum => Sys2Proof.Machine.execRGetoption address data checksum s
  | .rSetoption address data checksum => Sys2Proof.Machine.execRSetoption address data checksum s
  | .rSetsingle address data checksum => Sys2Proof.Machine.execRSetsingle address data checksum s
  | .rDelsingle address data checksum => Sys2Proof.Machine.execRDelsingle address data checksum s
  | .rToggle address data checksum => Sys2Proof.Machine.execRToggle address data checksum s
  | .rsFromByte b => Sys2Proof.Machine.execRsFromByte b s
  | .rsToByte ports => Sys2Proof.Machine.execRsToByte ports s
  | .rsMake ports address => Sys2Proof.Machine.execRsMake ports address s
  | .rsOnehot address portIndex => Sys2Proof.Machine.execRsOnehot address portIndex s
  | .reqEncode command address data => Sys2Proof.Machine.execReqEncode command address data s
  | .rspDecode f => Sys2Proof.Machine.execRspDecode f s
  | .rspClass => Sys2Proof.Machine.execRspClass s
  | .rspState => Sys2Proof.Machine.execRspState s

end Sys2Proof.Machine
end

