-- ==== Sys2Proof/Machine/Issue.lean ====
section
/-!
DEFINITION. Beginning a call that a host has issued (70_reset_and_hazards.md R216): an instruction runs whole, in this one step (30_encoding.md R71);
an exchange, a pseudo-instruction or INIT is validated and becomes the call in progress. And what other hosts can do while there is one.
-/

namespace Sys2Proof.Machine

/-- The refusal of a word that spells no instruction. -/
def refusalOf : Reject → Refusal
  | .noOperation sel => .noSuchOperation sel
  | .noFrame b0 => .noSuchFrame b0

/-- Run the instruction of a word, or refuse the word (R70). -/
def issueWord (w : IssueWord) (s : State) : Host.Outcome State Fault Refusal :=
  match decode w with
  | .ok i => exec i s
  | .error r => .refused (refusalOf r)

/-- Begin a call in `s`, from which it has been taken off the stream. -/
def issue (c : Call) (s : State) : Host.Outcome State Fault Refusal :=
  match c with
  | .word w => issueWord w s
  | .unguarded w => issueWord w s
  | .linkExchange => .next (beginExchange s)
  | .cmdSetPort r => .next (beginSetPort r s)
  | .cmdGetPort address => .next (beginGetPort address s)
  | .cmdSetSingle r => .next (beginSetSingle r s)
  | .cmdDelSingle r => .next (beginDelSingle r s)
  | .cmdToggle r => .next (beginToggle r s)
  | .cmdToggle1 address portIndex => .next (beginToggle1 address portIndex s)
  | .init => .next (s.setPhase .opening)

/-- Whether a call can be run, whole, while another is in progress: an instruction that writes no frame register, "at any time, in or out of an exclusive
section" (table T216); any instruction of a host that breaks the duty to hold the section (R200, R216); and a pseudo-instruction whose operands step 1
refuses, which is before the section is entered (R140, R148). A writer that keeps the duty, an exchange, any other pseudo-instruction and INIT wait for
the section (R42, R48, R208). A word that spells no instruction waits too: log entry 20. -/
def Call.runsBetween (c : Call) : Bool :=
  match c with
  | .word w =>
    match decode w with
    | .ok i => !(i.writesReq || i.writesRsp)
    | .error _ => false
  | .unguarded w =>
    match decode w with
    | .ok _ => true
    | .error _ => false
  | .cmdSetPort r => addressRefused r.address
  | .cmdGetPort address => addressRefused address
  | .cmdSetSingle r => addressRefused r.address
  | .cmdDelSingle r => addressRefused r.address
  | .cmdToggle r => addressRefused r.address
  | .cmdToggle1 address portIndex => (onehotOffence address portIndex).isSome
  | .linkExchange => false
  | .init => false

/-- A step with a call in progress: the next issued call, if `othersFirst` and it can be run meanwhile, or a turn of the call in progress. The block executes
one operation at a time (R48, R71, R215a). -/
def duringCall (othersFirst : Bool) (ev : LinkEvent) (a : Activity) (s : State) : Host.Outcome State Fault Refusal :=
  match s.pending with
  | [] => .next (advanceWith ev a s)
  | c :: rest => if c.runsBetween && othersFirst then issue c (s.setPending rest) else .next (advanceWith ev a s)

/-- With no call in progress: begin the next call of the stream, or, with none issued, wait for a host (R25, R217; log entry 13). -/
def beginNext (s : State) : Host.Outcome State Fault Refusal :=
  match s.pending with
  | [] => .next s
  | c :: rest => issue c (s.setPending rest)

/-- A word is handed over as the next call, with no call in progress. -/
def State.withWord (s : State) (w : IssueWord) : State := (s.setActive none).setPending (.word w :: s.pending)

end Sys2Proof.Machine
end

