-- ==== Sys2Proof/Machine/Step.lean ====
section
/-!
DEFINITION. The step function: the call in progress has a turn, or another host's operation is run between its turns, or the next call begins.
-/

namespace Sys2Proof.Machine

/-- One step. There is no fetch and no program counter: operations are issued by the hosts one at a time and executed in the order issued
(10_state.md R25, 20_memory.md R46). -/
def step (s : State) : Host.Outcome State Fault Refusal :=
  match s.active with
  | some a => duringCall (Config.othersFirst s.draws) s.linkEvent a s.nextDraw
  | none => beginNext s

/-- `s` with the instruction of the opcode-table word `w` issued next (log entry 2). -/
def State.withFetchWord (s : State) (nbits w : Nat) : State := s.withWord (tableWord nbits w)

end Sys2Proof.Machine
end

