-- ==== Sys2Proof/Machine/Board.lean ====
section
/-!
DEFINITION. The reference board of 42_wire_commands.md R150 and R152: ASSUMED, for smoke tests only. "No claim about the hardware may rest on this
board" (R152): the step function does not use it. Log entry 18.
-/

namespace Sys2Proof.Machine

/-- The relay byte of a board after a command with data byte `m`, in the natural reading of the document's words (R150): SetPort sets all, SetSingle
forces on, DelSingle forces off, Toggle flips, and GetPort changes nothing. For the other commands nothing is described and nothing changes. -/
def boardRelays (command m v : Byte) : Byte :=
  match command.toNat with
  | 3 => m
  | 6 => v ||| m
  | 7 => v &&& ~~~m
  | 8 => v ^^^ m
  | _ => v

/-- The answer of the reference board of address `address` and relay byte `v` to a request, with its relay byte afterwards (R152). For SetPort "the
data byte of the response is left as any byte": `ack`. DESIGN CHOICE, log entry 18: the rule writes the checksum over `v'` and leaves only the data byte
open, so it does not say which of the two the checksum of a SetPort answer covers; here it covers the data byte shown. A request to another address has no answer (R151: not described). -/
def referenceBoard (address v ack : Byte) (f : Frame) : Option (Frame × Byte) :=
  if f.address = address then
    let after := boardRelays f.code f.data v
    let shown := if f.code = 3 then ack else after
    some (⟨rspCodeOf f.code, address, shown, chk (rspCodeOf f.code) address shown⟩, after)
  else none

end Sys2Proof.Machine
end

