-- ==== Sys2Proof/Safety.lean ====
section
/-!
DEFINITION. What the claims speak of: the invariants of the machine, the duty of the hosts, the attempts of a scan, and how many outcomes are owed to
the hosts.
-/

namespace Sys2Proof

namespace Machine

/-- A frame `REQ` may hold: a command in 0..8 and the computed checksum (10_state.md R17, R18). -/
def goodRequest (f : Frame) : Prop := f.code.toNat ≤ 8 ∧ f.checksum = f.code ^^^ f.address ^^^ f.data

/-- Whatever `REQ` holds is such a frame (R17, R18). -/
def State.reqGood (s : State) : Prop := ∀ f, s.req = .holding f → goodRequest f

/-- Whatever `RSP` holds has a response code (10_state.md R20). -/
def State.rspGood (s : State) : Prop := ∀ f, s.rsp = .holding f → 247 ≤ f.code.toNat

/-- The turns of a call during which the transport's channel is open. -/
def Activity.channelOpen : Activity → Bool
  | .writeFrame _ => true
  | .readFrame _ => true
  | .handshake .opening => false
  | .handshake _ => true
  | _ => false

/-- What holds at each turn of a call in progress, of its own data: operands in range (R140, R148), loop counters below their bounds (R189, R191,
R193), the count in -1..255 (R196). -/
def Activity.inRange : Activity → Prop
  | .encode command address _ _ => command.toNat ≤ 8 ∧ address ≠ 0
  | .handshake (.setup k) => k < Config.setupTries
  | .handshake (.sync k) => k < Config.syncCount
  | .handshake (.scan k) => k < Config.chunkAttempts
  | .handshake (.closing n) => -1 ≤ n ∧ n ≤ 255
  | .openLink _ | .writeFrame _ | .readFrame _ | .decodeResponse _ _ | .decodeState _ | .handshake .opening | .handshake .chainWait
  | .handshake .syncWait => True

/-- What holds of the frame registers at each turn of a call in progress that no host has disturbed: each register is written before it is read (10_state.md
R23). -/
def Activity.owns (s : State) : Activity → Prop
  | .openLink _ | .writeFrame _ | .readFrame _ | .decodeResponse _ _ => s.reqV = true
  | .decodeState r => s.rsp = .holding r
  | .encode _ _ _ _ | .handshake _ => True

/-- The call does not write a frame register outside the exclusive section (R48, R216). -/
def Call.keepsDuty : Call → Prop
  | .unguarded w => ∀ i, decode w = .ok i → i.writesReq = false ∧ i.writesRsp = false
  | .word _ | .linkExchange | .cmdSetPort _ | .cmdGetPort _ | .cmdSetSingle _ | .cmdDelSingle _ | .cmdToggle _ | .cmdToggle1 _ _ | .init => True

/-- What holds of the machine whatever the hosts do. -/
structure State.Safe (s : State) : Prop where
  /-- R17, R18. -/
  req : s.reqGood
  /-- R20. -/
  rsp : s.rspGood
  /-- "the returned count is an integer in -1..255" (R196). -/
  count : -1 ≤ s.detectedCount ∧ s.detectedCount ≤ 255
  /-- "`initialized = (count >= 1)`" (R196). -/
  mark : s.initialized = decide (1 ≤ s.detectedCount)
  /-- The channel is open exactly during the turns that need it (R149, R195). -/
  channel : s.line.channelOpen = (s.active.map Activity.channelOpen).getD false
  /-- The call in progress is where its steps say it can be. -/
  phase : ∀ a, s.active = some a → a.inRange

/-- The invariant of the machine whose hosts keep their duties (R216). -/
structure State.Inv (s : State) : Prop extends State.Safe s where
  /-- No call breaks the duty. -/
  duty : ∀ c ∈ s.pending, c.keepsDuty
  /-- The call in progress finds in the registers what it has put there. -/
  owns : ∀ a, s.active = some a → a.owns s

/-- Turns of step 6 of INIT with the input `bs` buffered before them, none failing and none bringing a setup echo: how many of them were attempts, and
what is left in the input. An attempt takes a chunk of 4 bytes, or is over by a short read; a turn with fewer than 4 bytes that is no short read only
waits (70_reset_and_hazards.md R193; the short reads are log entry 14). `none` if a turn fails or brings an echo. -/
def scanOver : List LinkEvent → List Byte → Option (Nat × List Byte)
  | [], bs => some (0, bs)
  | ev :: evs, bs =>
    if ev.failed then none
    else
      match bs ++ ev.arrived with
      | b0 :: _ :: _ :: _ :: left => if b0 = 1 then none else (scanOver evs left).map fun r => (r.1 + 1, r.2)
      | short =>
        match ev.shortRead with
        | some n => (scanOver evs (short.drop n)).map fun r => (r.1 + 1, r.2)
        | none => scanOver evs short

/-- The outcomes handed back and the calls still owed one: issued and not begun, or in progress (60_exceptions.md R173, R217). -/
def State.callsInAll (s : State) : Nat := s.handed.length + s.pending.length + s.active.toList.length

end Machine
end Sys2Proof
end

