-- ==== Sys2Proof/Certificates/Slice0/Obligations.lean ====
section
/-!
DEFINITION. The statements for the provers. Next states are written out as records, so that what an operation leaves unchanged is read off the
statement.
-/

open Sys2Proof Sys2Proof.Machine

/-! ### Encoding and the decoder -/

/-- Words written out from the spec: the frames of 95_test_vectors.md V4, V5, V8 and V9 by rule R9's numbering, and select codes of table T70. -/
def Obligations.SpecWordsDecode : Prop :=
  decodeTableWord 32 0x03013133 = some (.setport 1 49) ∧
  decodeTableWord 32 0x02010003 = some (.getport 1 0) ∧
  decodeTableWord 32 0x08020802 = some (.toggle 2 8) ∧
  decodeTableWord 32 0xFD014100 = some (.rGetport 1 65 0) ∧
  decodeTableWord 32 0xF70102F4 = some (.rToggle 1 2 244) ∧
  decodeTableWord 32 0xF60102F5 = none ∧
  decodeTableWord 8 0x4 = some (.reqEncode 0 0 0) ∧
  decodeTableWord 8 0x7 = some .rspState ∧
  decodeTableWord 8 0x8 = none

/-- Every instruction's word decodes to it, with every operand at every value; and a word that decodes to an instruction differs from the
encoder's word of it at most in what the decoder does not read (the checksum byte of a request, operand ports the operation does not have). The
second half rests on the model's log entries 3 and 5. -/
def Obligations.DecodeEncodeAgree : Prop :=
  (∀ i : Instr, decode (encode i) = .ok i) ∧
    ∀ (w : IssueWord) (i : Instr), decode w = .ok i → encode i = w.canonical

/-- The decoder rejects exactly the select values from 8 on and the frames whose byte 0 is in 9..246 (R58, R70). That a frame word of 9..246 is a
refused word is log entry 20, that the select is a byte log entry 3; that no other frame is rejected, a request with another checksum byte and a GETPORT
with data other than 0 included, is the model's choice, log entries 5 and 6. -/
def Obligations.ExactlyUndefinedWordsAreRejected : Prop :=
  ∀ w : IssueWord, (∃ r, decode w = .error r) ↔
    match w with
    | .op sel _ _ _ _ => 8 ≤ sel.toNat
    | .frame f => 9 ≤ f.code.toNat ∧ f.code.toNat ≤ 246

/-- Table T70 of R70: the select codes 0x0 to 0x7 select the eight operations; 0x8 to 0xF select nothing and are refused. -/
def Obligations.SelectCodesChooseOperations : Prop :=
  ∀ sel p0 p1 p2 p3 : Byte,
    (sel = 0x0 → ∃ b, decode (.op sel p0 p1 p2 p3) = .ok (.rsFromByte b)) ∧
    (sel = 0x1 → ∃ p, decode (.op sel p0 p1 p2 p3) = .ok (.rsToByte p)) ∧
    (sel = 0x2 → ∃ p a, decode (.op sel p0 p1 p2 p3) = .ok (.rsMake p a)) ∧
    (sel = 0x3 → ∃ a k, decode (.op sel p0 p1 p2 p3) = .ok (.rsOnehot a k)) ∧
    (sel = 0x4 → ∃ c a d, decode (.op sel p0 p1 p2 p3) = .ok (.reqEncode c a d)) ∧
    (sel = 0x5 → ∃ f, decode (.op sel p0 p1 p2 p3) = .ok (.rspDecode f)) ∧
    (sel = 0x6 → decode (.op sel p0 p1 p2 p3) = .ok .rspClass) ∧
    (sel = 0x7 → decode (.op sel p0 p1 p2 p3) = .ok .rspState) ∧
    (8 ≤ sel.toNat → sel.toNat ≤ 15 → ∀ s rest, s.active = none → s.pending = .word (.op sel p0 p1 p2 p3) :: rest →
      step s = .refused (.noSuchOperation sel))

/-- A step runs the decoded instruction: with no call in progress and the next issued word decoding to `i`, the step is `exec i` in the state
from which that word has been taken; and so for a word the host places. -/
def Obligations.StepRunsDecodedInstruction : Prop :=
  (∀ (s : State) (w : IssueWord) (rest : List Call) (i : Instr),
    s.active = none → s.pending = .word w :: rest ∨ s.pending = .unguarded w :: rest → decode w = .ok i →
      step s = exec i { s with pending := rest }) ∧
  ∀ (s : State) (nbits w : Nat) (i : Instr), decodeTableWord nbits w = some i →
    step (s.withFetchWord nbits w) = exec i { s with active := none }

/-! ### The relay-state codec -/

/-- R80: `ports[i] = bit i of b`, for i in 0..7. -/
def Obligations.FromByteSetsPortsToBits : Prop :=
  ∀ (b : Byte) (i : Fin 8), portAt (fromByte b) i = b.getLsbD i

/-- R81: bit `i` of the byte is port `i`; as a number the byte is the sum of 2^i over the true ports. -/
def Obligations.ToByteSumsWeights : Prop :=
  ∀ p : Ports, (∀ i : Fin 8, (toByte p).getLsbD i = portAt p i) ∧
    (toByte p).toNat = ∑ i : Fin 8, if portAt p i then 2 ^ i.val else 0

/-- R82: both round trips. -/
def Obligations.PortCodecRoundTrip : Prop :=
  (∀ p : Ports, fromByte (toByte p) = p) ∧ ∀ b : Byte, toByte (fromByte b) = b

/-- R88: all false, all true, one port, the port-wise Boolean operations, and that bit `i` of the byte is port `i` with nothing between. -/
def Obligations.ToByteCommutesWithPortwiseLogic : Prop :=
  toByte ⟨false, false, false, false, false, false, false, false⟩ = 0 ∧
  toByte ⟨true, true, true, true, true, true, true, true⟩ = 255 ∧
  (∀ (p : Ports) (k : Fin 8), (∀ i, portAt p i = decide (i = k)) → toByte p = 1#8 <<< k.val) ∧
  (∀ p q : Ports, toByte (portwise and p q) = toByte p &&& toByte q) ∧
  (∀ p q : Ports, toByte (portwise or p q) = toByte p ||| toByte q) ∧
  (∀ p q : Ports, toByte (portwise xor p q) = toByte p ^^^ toByte q) ∧
  (∀ p : Ports, toByte (portNot p) = ~~~ toByte p) ∧
  ∀ (p : Ports) (b : Byte) (i : Fin 8), (toByte p).getLsbD i = portAt p i ∧ portAt (fromByte b) i = b.getLsbD i

/-- R83, R84: RS.FROMBYTE and RS.TOBYTE are selected by 0x0 and 0x1 with any operand, never fail, hand back the ports and the byte, and change
nothing else. (Which port an operand stands on is the model's, log entry 3: here and below only that some ports carry it is said.) -/
def Obligations.ByteCodecOperationsComplete : Prop :=
  ∀ (s : State) (b : Byte) (p : Ports),
    (∃ p0 p1 p2 p3, decode (.op 0x0 p0 p1 p2 p3) = .ok (.rsFromByte b)) ∧
    (∃ p0 p1 p2 p3, decode (.op 0x1 p0 p1 p2 p3) = .ok (.rsToByte p)) ∧
    exec (.rsFromByte b) s = .next { s with handed := s.handed ++ [.ports (fromByte b)] } ∧
    exec (.rsToByte p) s = .next { s with handed := s.handed ++ [.byte (toByte p)] } ∧
    (∀ i : Fin 8, portAt (fromByte b) i = b.getLsbD i) ∧
    ∀ i : Fin 8, (toByte p).getLsbD i = portAt p i

/-- R85: RS.MAKE, selected by 0x2. -/
def Obligations.RsMakeOutcome : Prop :=
  ∀ (s : State) (p : Ports) (a : Byte),
    (∃ p0 p1 p2 p3, decode (.op 0x2 p0 p1 p2 p3) = .ok (.rsMake p a)) ∧
    (a ≠ 0 → exec (.rsMake p a) s = .next { s with handed := s.handed ++ [.relayState ⟨p, a⟩] }) ∧
    (a = 0 → exec (.rsMake p a) s = .next { s with handed := s.handed ++ [.error (.configuration a)] })

/-- R86: RS.ONEHOT, selected by 0x3. When both operands are out of range the recorded one is left open. -/
def Obligations.RsOnehotOutcome : Prop :=
  ∀ (s : State) (a k : Byte),
    (∃ p0 p1 p2 p3, decode (.op 0x3 p0 p1 p2 p3) = .ok (.rsOnehot a k)) ∧
    (a ≠ 0 → k.toNat ≤ 7 → ∃ p : Ports, exec (.rsOnehot a k) s = .next { s with handed := s.handed ++ [.relayState ⟨p, a⟩] } ∧
      (∀ i : Fin 8, portAt p i = decide (i.val = k.toNat)) ∧ toByte p = 1#8 <<< k.toNat) ∧
    (a = 0 ∨ 7 < k.toNat →
      ∃ b, exec (.rsOnehot a k) s = .next { s with handed := s.handed ++ [.error (.configuration b)] } ∧
        (k.toNat ≤ 7 → b = a) ∧ (a ≠ 0 → b = k))

/-! ### The frame codec -/

/-- R101: the four properties of the checksum. -/
def Obligations.ChecksumLaws : Prop :=
  ∀ c a d : Byte,
    c ^^^ a ^^^ d ^^^ chk c a d = 0 ∧
    (chk c a d = 0 ↔ d = c ^^^ a) ∧
    chk c a 0 = c ^^^ a ∧
    ∀ (k : Byte) (i : Fin 8), k = chk c a d →
      let m : Byte := 1#8 <<< i.val
      (c ^^^ m) ^^^ a ^^^ d ^^^ k ≠ 0 ∧ c ^^^ (a ^^^ m) ^^^ d ^^^ k ≠ 0 ∧ c ^^^ a ^^^ (d ^^^ m) ^^^ k ≠ 0 ∧
      c ^^^ a ^^^ d ^^^ (k ^^^ m) ≠ 0 ∧
      (c ^^^ m) ^^^ (a ^^^ m) ^^^ d ^^^ k = 0 ∧ (c ^^^ m) ^^^ a ^^^ (d ^^^ m) ^^^ k = 0 ∧
      (c ^^^ m) ^^^ a ^^^ d ^^^ (k ^^^ m) = 0 ∧ c ^^^ (a ^^^ m) ^^^ (d ^^^ m) ^^^ k = 0 ∧
      c ^^^ (a ^^^ m) ^^^ d ^^^ (k ^^^ m) = 0 ∧ c ^^^ a ^^^ (d ^^^ m) ^^^ (k ^^^ m) = 0

/-- R57: the response-code law and its two inverse functions. -/
def Obligations.ResponseCodeLaw : Prop :=
  (∀ c : Byte, c.toNat ≤ 8 → (rspCodeOf c).toNat = 255 - c.toNat ∧ isRspCode (rspCodeOf c) = true ∧
    cmdOfRspCode (rspCodeOf c) = c ∧ rspCodeOf c = ~~~ c) ∧
  (∀ r : Byte, 247 ≤ r.toNat → (cmdOfRspCode r).toNat = 255 - r.toNat ∧ (cmdOfRspCode r).toNat ≤ 8 ∧
    rspCodeOf (cmdOfRspCode r) = r) ∧
  ∀ b : Byte, isRspCode b = true ↔ b ∈ [255, 254, 253, 252, 251, 250, 249, 248, 247]

/-- R102: REQ.ENCODE, its select 0x4, its result, its error and what each changes. -/
def Obligations.ReqEncodeOutcome : Prop :=
  ∀ (s : State) (c a d : Byte),
    (∃ p0 p1 p2 p3, decode (.op 0x4 p0 p1 p2 p3) = .ok (.reqEncode c a d)) ∧
    (c.toNat ≤ 8 → exec (.reqEncode c a d) s =
      .next { s with req := .holding ⟨c, a, d, c ^^^ a ^^^ d⟩, handed := s.handed ++ [.request ⟨c, a, d, c ^^^ a ^^^ d⟩] }) ∧
    (8 < c.toNat → exec (.reqEncode c a d) s =
      .next { s with req := .empty, handed := s.handed ++ [.error (.configuration c)] })

/-- R104: RSP.DECODE, its select 0x5, its result, its error and what each changes. Nothing but byte 0 decides (R105). -/
def Obligations.RspDecodeOutcome : Prop :=
  ∀ (s : State) (f : Frame),
    (∃ p0 p1 p2 p3, decode (.op 0x5 p0 p1 p2 p3) = .ok (.rspDecode f)) ∧
    (247 ≤ f.code.toNat → exec (.rspDecode f) s = .next { s with rsp := .holding f, handed := s.handed ++ [.response f] }) ∧
    (f.code.toNat < 247 → exec (.rspDecode f) s =
      .next { s with rsp := .empty, handed := s.handed ++ [.error (.decode f.code)] })

/-- R106: RSP.CLASS, selected by 0x6. The command is 255 - code, in 0..8 for every code RSP.DECODE stores. -/
def Obligations.RspClassOutcome : Prop :=
  ∀ s : State,
    (∀ p0 p1 p2 p3, decode (.op 0x6 p0 p1 p2 p3) = .ok .rspClass) ∧
    (s.rspV = false → exec .rspClass s = .next { s with handed := s.handed ++ [.error (.noValue .rsp)] }) ∧
    ∀ f, s.rsp = .holding f → 247 ≤ f.code.toNat →
      ∃ c : Byte, exec .rspClass s = .next { s with handed := s.handed ++ [.command c] } ∧ c.toNat = 255 - f.code.toNat ∧ c.toNat ≤ 8

/-- R107: RSP.STATE, selected by 0x7: the ports of the data byte, with the response's own address, whatever the code. -/
def Obligations.RspStateOutcome : Prop :=
  ∀ s : State,
    (∀ p0 p1 p2 p3, decode (.op 0x7 p0 p1 p2 p3) = .ok .rspState) ∧
    (s.rspV = false → exec .rspState s = .next { s with handed := s.handed ++ [.error (.noValue .rsp)] }) ∧
    ∀ f, s.rsp = .holding f →
      exec .rspState s = .next { s with handed := s.handed ++ [.relayState ⟨fromByte f.data, f.address⟩] }

/-- R120 to R128: each request command leaves its frame in REQ, checksum computed, and hands it back; nothing else changes. That issuing the word sends
nothing is log entry 4. R122 gives GETPORT data 0 only: its clause for other data is log entry 6. -/
def Obligations.RequestCommandsBuildTheirFrames : Prop :=
  ∀ (s : State) (a d : Byte),
    let built : Byte → State := fun c =>
      { s with req := .holding ⟨c, a, d, c ^^^ a ^^^ d⟩, handed := s.handed ++ [.request ⟨c, a, d, c ^^^ a ^^^ d⟩] }
    exec (.nop a d) s = .next (built 0) ∧ exec (.setup a d) s = .next (built 1) ∧ exec (.getport a d) s = .next (built 2) ∧
    exec (.setport a d) s = .next (built 3) ∧ exec (.getoption a d) s = .next (built 4) ∧ exec (.setoption a d) s = .next (built 5) ∧
    exec (.setsingle a d) s = .next (built 6) ∧ exec (.delsingle a d) s = .next (built 7) ∧ exec (.toggle a d) s = .next (built 8)

/-- R130 to R138: each response frame is stored in RSP as received, whatever its last three bytes, and RSP.CLASS then answers its command. -/
def Obligations.ResponseFramesAreStoredAndClassified : Prop :=
  ∀ (s : State) (a d k : Byte),
    let stored : Byte → State := fun c => { s with rsp := .holding ⟨c, a, d, k⟩, handed := s.handed ++ [.response ⟨c, a, d, k⟩] }
    let classified : Byte → Byte → Prop := fun c n =>
      exec .rspClass (stored c) = .next { stored c with handed := s.handed ++ [.response ⟨c, a, d, k⟩, .command n] }
    (exec (.rNop a d k) s = .next (stored 255) ∧ classified 255 0) ∧
    (exec (.rSetup a d k) s = .next (stored 254) ∧ classified 254 1) ∧
    (exec (.rGetport a d k) s = .next (stored 253) ∧ classified 253 2) ∧
    (exec (.rSetport a d k) s = .next (stored 252) ∧ classified 252 3) ∧
    (exec (.rGetoption a d k) s = .next (stored 251) ∧ classified 251 4) ∧
    (exec (.rSetoption a d k) s = .next (stored 250) ∧ classified 250 5) ∧
    (exec (.rSetsingle a d k) s = .next (stored 249) ∧ classified 249 6) ∧
    (exec (.rDelsingle a d k) s = .next (stored 248) ∧ classified 248 7) ∧
    (exec (.rToggle a d k) s = .next (stored 247) ∧ classified 247 8)

/-- R111: feeding what REQ holds to RSP.DECODE raises DecodeError: in every state in which what REQ holds is a request (which every step keeps,
RequestRegisterStaysGood), whoever wrote it and whenever; and after any instruction that writes REQ, from every state. -/
def Obligations.RequestFedToDecoderIsDecodeError : Prop :=
  (∀ (s : State) (f : Frame), s.reqGood → s.req = .holding f →
    exec (.rspDecode f) s = .next { s with rsp := .empty, handed := s.handed ++ [.error (.decode f.code)] }) ∧
  ∀ (s t : State) (i : Instr) (f : Frame), i.writesReq = true → exec i s = .next t → t.req = .holding f →
    exec (.rspDecode f) t = .next { t with rsp := .empty, handed := t.handed ++ [.error (.decode f.code)] }

/-! ### All instructions -/

/-- The frame of every instruction, and that each completes: exactly one outcome is handed back; REQ is written only by the request commands and
REQ.ENCODE, RSP only by the response frames and RSP.DECODE; nothing else changes. That the word of a request command leaves the line as it is, so sends nothing, is the
model's choice, log entry 4. -/
def Obligations.EveryInstructionCompletesInItsFrame : Prop :=
  ∀ (i : Instr) (s : State), ∃ (q r : FrameReg) (h : Handed),
    exec i s = .next { s with req := q, rsp := r, handed := s.handed ++ [h] } ∧
    (i.writesReq = false → q = s.req) ∧ (i.writesRsp = false → r = s.rsp)

/-- R170: an instruction that ends with an error has cleared the valid bit of the register it writes, if it writes one, and changed nothing
else. -/
def Obligations.FailingOperationClearsOnlyItsValidBit : Prop :=
  ∀ (i : Instr) (s t : State) (e : Err), exec i s = .next t → t.handed = s.handed ++ [.error e] →
    t = { s with req := if i.writesReq then .empty else s.req, rsp := if i.writesRsp then .empty else s.rsp,
                 handed := s.handed ++ [.error e] }

/-- R27: no instruction reads the environment: its outcome is the same whatever the transport, the controller's marks and the oracle's turns are. That none
writes it either, a request command sending nothing, is the model's choice, log entry 4; the oracle's counter is the model's own, log entry 9. -/
def Obligations.InstructionsIgnoreTheEnvironment : Prop :=
  ∀ (i : Instr) (s t : State) (l : Line) (m : Bool) (n : Int) (k : Nat), exec i s = .next t →
    exec i { s with line := l, initialized := m, detectedCount := n, draws := k } =
      .next { t with line := l, initialized := m, detectedCount := n, draws := k }

/-! ### Reset and the invariant -/

/-- R28: after reset both valid bits are 0, and nothing can be read: the readers of RSP and the link's read of REQ answer NoValue. -/
def Obligations.ResetLeavesRegistersUnreadable : Prop :=
  State.reset.reqV = false ∧ State.reset.rspV = false ∧
  exec .rspClass State.reset = .next { State.reset with handed := [.error (.noValue .rsp)] } ∧
  exec .rspState State.reset = .next { State.reset with handed := [.error (.noValue .rsp)] } ∧
  step { State.reset with pending := [.linkExchange] } = .next { State.reset with handed := [.error (.noValue .req)] }

/-- The invariant holds at reset (its part about the detected count rests on log entry 15). -/
def Obligations.ResetMeetsTheInvariant : Prop := State.reset.Inv

/-- Every step keeps the invariant, from every state that meets it: the hosts keep their duties (R216; the calls they have issued say so), and then
each call in progress finds in the frame registers what it has put there (R23, R48). -/
def Obligations.StepKeepsTheInvariant : Prop :=
  ∀ s t : State, s.Inv → step s = .next t → t.Inv

/-- And whatever the hosts do, duties broken included, every step keeps the part of the invariant that does not speak of them. -/
def Obligations.StepKeepsTheMachineSafe : Prop :=
  ∀ s t : State, s.Safe → step s = .next t → t.Safe

/-- R18, R103: whatever happens, REQ never comes to hold a command above 8 or a checksum that is not the exclusive or. -/
def Obligations.RequestRegisterStaysGood : Prop :=
  ∀ s t : State, s.reqGood → step s = .next t → t.reqGood

/-- R20: "Whenever RSP_V = 1, RSP.code is in 247..255": every step keeps it. -/
def Obligations.ResponseRegisterStaysGood : Prop :=
  ∀ s t : State, s.rspGood → step s = .next t → t.rspGood

/-- R10, R16: REQ changes only in a step that runs an instruction that writes it or the encoding step of a pseudo-instruction; RSP only in a
step that runs an instruction that writes it or the decoding step. While a call is in progress that instruction is one of a host that breaks its
duty (R48, R216; log entry 10). -/
def Obligations.FrameRegistersHaveNoOtherWriter : Prop :=
  ∀ s t : State, step s = .next t →
    (t.req ≠ s.req → (∃ c a d w, s.active = some (.encode c a d w)) ∨
      ∃ w rest i, (s.active = none ∧ s.pending = .word w :: rest ∨ s.pending = .unguarded w :: rest) ∧ decode w = .ok i ∧ i.writesReq = true) ∧
    (t.rsp ≠ s.rsp → (∃ g w, s.active = some (.decodeResponse g w)) ∨
      ∃ w rest i, (s.active = none ∧ s.pending = .word w :: rest ∨ s.pending = .unguarded w :: rest) ∧ decode w = .ok i ∧ i.writesRsp = true)

/-! ### Calls, their order and their outcomes -/

/-- With a call in progress a step is one turn of it, the link doing what the oracle says, unless the free value `Config.othersFirst` lets another
host's operation go first; and it is that turn when no call is issued, or the next one is an exchange or INIT. Turns, counter and that free value are the model's,
log entries 9 and 10. -/
def Obligations.StepIsATurnOfTheCallInProgress : Prop :=
  ∀ (s : State) (a : Activity), s.active = some a →
    let turn : State := advanceWith (Config.board s.draws s.line.sent) a { s with draws := s.draws + 1 }
    step s = duringCall (Config.othersFirst s.draws) (Config.board s.draws s.line.sent) a { s with draws := s.draws + 1 } ∧
    (∀ ev u, duringCall false ev a u = .next (advanceWith ev a u)) ∧
    (s.pending = [] → step s = .next turn) ∧
    ∀ rest, s.pending = .linkExchange :: rest ∨ s.pending = .init :: rest → step s = .next turn

/-- R216, table T216: what another host's operation does when it goes first. One that writes no frame register runs, "in or out of an exclusive section"; a
writer waits for the section, and the step is a turn of the call (R48); of a host that breaks its duty every operation runs. -/
def Obligations.OthersOperationsRunBetweenTurns : Prop :=
  ∀ (ev : LinkEvent) (a : Activity) (s : State) (w : IssueWord) (rest : List Call) (i : Instr), decode w = .ok i →
    (s.pending = .word w :: rest → i.writesReq = false → i.writesRsp = false → duringCall true ev a s = exec i { s with pending := rest }) ∧
    (s.pending = .word w :: rest → i.writesReq = true ∨ i.writesRsp = true → duringCall true ev a s = .next (advanceWith ev a s)) ∧
    (s.pending = .unguarded w :: rest → duringCall true ev a s = exec i { s with pending := rest })

/-- R140, R148, R208: another host's pseudo-instruction with operands in range waits for the section; one with an address of 0 or a port index above 7 is
refused by step 1, which is before the section is entered, so also while a call is in progress, and leaves that call alone. -/
def Obligations.OthersCommandsWaitOrAreRefused : Prop :=
  ∀ (ev : LinkEvent) (a : Activity) (s : State) (rest : List Call) (p : Ports) (x k : Byte),
    let waits : Call → Prop := fun c => s.pending = c :: rest → duringCall true ev a s = .next (advanceWith ev a s)
    let refused : Call → Prop := fun c => s.pending = c :: rest →
      ∃ b, duringCall true ev a s = .next { s with pending := rest, handed := s.handed ++ [.error (.configuration b)] }
    (x ≠ 0 → waits (.cmdSetPort ⟨p, x⟩) ∧ waits (.cmdGetPort x) ∧ waits (.cmdSetSingle ⟨p, x⟩) ∧ waits (.cmdDelSingle ⟨p, x⟩) ∧
      waits (.cmdToggle ⟨p, x⟩) ∧ (k.toNat ≤ 7 → waits (.cmdToggle1 x k))) ∧
    (x = 0 → refused (.cmdSetPort ⟨p, x⟩) ∧ refused (.cmdGetPort x) ∧ refused (.cmdSetSingle ⟨p, x⟩) ∧ refused (.cmdDelSingle ⟨p, x⟩) ∧
      refused (.cmdToggle ⟨p, x⟩)) ∧
    (x = 0 ∨ 7 < k.toNat → refused (.cmdToggle1 x k))

/-- R48, R216: a host that keeps its duties does not disturb the call in progress: its word, run between two turns, leaves the call where it is, and
the registers, the transport and the marks as they are; it is handed its outcome. -/
def Obligations.GuardedOperationsLeaveTheCallAlone : Prop :=
  ∀ (ev : LinkEvent) (a : Activity) (s t : State) (w : IssueWord) (rest : List Call),
    s.pending = .word w :: rest → duringCall true ev a s = .next t → t.pending = rest →
    ∃ h, t = { s with pending := rest, handed := s.handed ++ [h] }

/-- R200, R216: "A host that breaks a duty gets no error from the block: the result is the silent wrong frame". A request encoded by another host before
the write turn is what the link sends; a response decoded by another host before the last step is the state the caller gets, beside its own raw frame.
No outcome is an error. How hosts break the duty is log entry 10. -/
def Obligations.BrokenDutyGivesTheWrongFrame : Prop :=
  ∀ (ev ev' : LinkEvent) (s : State) (w : IssueWord) (rest : List Call), s.pending = .unguarded w :: rest →
    (∀ p c a d, decode w = .ok (.reqEncode c a d) → c.toNat ≤ 8 → ev'.failed = false →
      ∃ t, duringCall true ev (.writeFrame p) s = .next t ∧ t.handed = s.handed ++ [.request ⟨c, a, d, c ^^^ a ^^^ d⟩] ∧ t.active = s.active ∧
        (advanceWith ev' (.writeFrame p) t).line.sent = s.line.sent ++ [c, a, d, c ^^^ a ^^^ d] ∧
        (advanceWith ev' (.writeFrame p) t).handed = t.handed) ∧
    ∀ r f, decode w = .ok (.rspDecode f) → 247 ≤ f.code.toNat →
      ∃ t, duringCall true ev (.decodeState r) s = .next t ∧ t.handed = s.handed ++ [.response f] ∧ t.active = s.active ∧
        (advanceWith ev' (.decodeState r) t).handed = t.handed ++ [.composite r (some ⟨fromByte f.data, f.address⟩)]

/-- While a call is in progress no other exchange, pseudo-instruction or INIT begins, and no instruction of a dutiful host that writes a frame register
(R42, R48, R188, R200): the step is a turn, which begins nothing, or it takes one issued call off, and the call in progress stays where it is: a word that
writes no frame register (table T216) or is of a host that breaks its duty (log entry 10), or a pseudo-instruction that step 1 refuses (R140, R148). -/
def Obligations.NoCallBeginsDuringAnother : Prop :=
  ∀ (s t : State) (a : Activity), s.active = some a → step s = .next t →
    t.pending = s.pending ∨
    ∃ c, s.pending = c :: t.pending ∧ t.active = s.active ∧
      ((∃ w i, decode w = .ok i ∧ (c = .unguarded w ∨ c = .word w ∧ i.writesReq = false ∧ i.writesRsp = false)) ∨
        ∃ b, t = { s with pending := t.pending, draws := s.draws + 1, handed := s.handed ++ [.error (.configuration b)] })

/-- R70, R58, R172: the machine stops exactly at a word that spells no instruction, and refuses it by name: an operation select of 8 or more, a frame
word with byte 0 in 9..246 (that this is a refusal, and that such a word waits while a call is in progress, is log entry 20; that the select is a byte, log entry 3). From every other state it goes on; that it has
a next state with nothing issued is log entry 13. -/
def Obligations.OnlyUndefinedWordsStopTheMachine : Prop :=
  ∀ s : State,
    (∀ sel p0 p1 p2 p3 c rest, s.active = none → s.pending = c :: rest → c = .word (.op sel p0 p1 p2 p3) ∨ c = .unguarded (.op sel p0 p1 p2 p3) →
      8 ≤ sel.toNat → step s = .refused (.noSuchOperation sel)) ∧
    (∀ f c rest, s.active = none → s.pending = c :: rest → c = .word (.frame f) ∨ c = .unguarded (.frame f) →
      9 ≤ f.code.toNat → f.code.toNat ≤ 246 → step s = .refused (.noSuchFrame f.code)) ∧
    ((∃ t, step s = .next t) ↔
      ¬ (s.active = none ∧ ∃ c w rest, s.pending = c :: rest ∧ (c = .word w ∨ c = .unguarded w) ∧
        match w with
        | .op sel _ _ _ _ => 8 ≤ sel.toNat
        | .frame f => 9 ≤ f.code.toNat ∧ f.code.toNat ≤ 246))

/-- R169, R173: no call is lost and none is handed two outcomes: the outcomes handed back and the calls still owed one are together unchanged in number by
a step, and a step hands back at most one. A call that never returns (R203) is owed its outcome for ever. -/
def Obligations.NoCallIsLostOrAnsweredTwice : Prop :=
  ∀ s t : State, step s = .next t → t.callsInAll = s.callsInAll ∧ t.handed.length ≤ s.handed.length + 1

/-- R207: what has been handed back never changes. -/
def Obligations.ResultsAreCopies : Prop :=
  ∀ s t : State, step s = .next t → ∃ more, t.handed = s.handed ++ more

/-- With nothing issued and nothing in progress the step changes nothing (R217; that it is a step at all is the model's, log entry 13). -/
def Obligations.RunOverIsFinal : Prop :=
  ∀ s : State, s.runOver = true → step s = .next s

/-- R163: the link asked to send with REQ_V = 0 answers NoValue and changes nothing. -/
def Obligations.LinkRefusesEmptyRequest : Prop :=
  ∀ (s : State) (rest : List Call), s.active = none → s.pending = .linkExchange :: rest → s.reqV = false →
    step s = .next { s with pending := rest, handed := s.handed ++ [.error (.noValue .req)] }

/-- R163: no call in progress, once begun, ends with NoValue, the hosts keeping their duties: the turns of a call do not hand it back (`t.pending = s.pending`
says that the step is not another host's operation, which may). -/
def Obligations.NoCallInProgressRaisesNoValue : Prop :=
  ∀ (s t : State) (a : Activity) (r : RegName), s.Inv → s.active = some a → step s = .next t → t.pending = s.pending →
    t.handed ≠ s.handed ++ [.error (.noValue r)]

/-! ### The pseudo-instructions and the exchange

`turns` are the turns of one call with no other host's operation between them. An operation of a host that keeps its duties, run between two of them, changes
nothing that they read (GuardedOperationsLeaveTheCallAlone); one of a host that breaks them can (BrokenDutyGivesTheWrongFrame). -/

/-- R148, R161: an address of 0 or a port index above 7 is refused before anything is encoded or sent, and the error names the offending operand. Which of the
two the error of CMD.TOGGLE1 names is left open when both are wrong (log entry 8). -/
def Obligations.CommandsRefuseBadOperands : Prop :=
  ∀ (s : State) (rest : List Call) (p : Ports) (k : Byte), s.active = none →
    let refused : Byte → State := fun b => { s with pending := rest, handed := s.handed ++ [.error (.configuration b)] }
    (s.pending = .cmdSetPort ⟨p, 0⟩ :: rest → step s = .next (refused 0)) ∧
    (s.pending = .cmdGetPort 0 :: rest → step s = .next (refused 0)) ∧
    (s.pending = .cmdSetSingle ⟨p, 0⟩ :: rest → step s = .next (refused 0)) ∧
    (s.pending = .cmdDelSingle ⟨p, 0⟩ :: rest → step s = .next (refused 0)) ∧
    (s.pending = .cmdToggle ⟨p, 0⟩ :: rest → step s = .next (refused 0)) ∧
    (∀ a, s.pending = .cmdToggle1 a k :: rest → a = 0 ∨ 7 < k.toNat →
      ∃ b, step s = .next (refused b) ∧ (k.toNat ≤ 7 → b = a) ∧ (a ≠ 0 → b = k))

/-- R59, R60, R141 to R146: with operands in range each pseudo-instruction takes the exclusive section and goes on to encode its own command, its
operand's address and its data byte; a state is to be decoded by all but CMD.SETPORT. -/
def Obligations.CommandsBeginWithTheirRequest : Prop :=
  ∀ (s : State) (rest : List Call) (p : Ports) (a k : Byte), s.active = none → a ≠ 0 →
    let begun : Byte → Byte → Bool → State := fun c d w => { s with pending := rest, active := some (.encode c a d w) }
    (s.pending = .cmdSetPort ⟨p, a⟩ :: rest → step s = .next (begun 3 (toByte p) false)) ∧
    (s.pending = .cmdGetPort a :: rest → step s = .next (begun 2 0 true)) ∧
    (s.pending = .cmdSetSingle ⟨p, a⟩ :: rest → step s = .next (begun 6 (toByte p) true)) ∧
    (s.pending = .cmdDelSingle ⟨p, a⟩ :: rest → step s = .next (begun 7 (toByte p) true)) ∧
    (s.pending = .cmdToggle ⟨p, a⟩ :: rest → step s = .next (begun 8 (toByte p) true)) ∧
    (s.pending = .cmdToggle1 a k :: rest → k.toNat ≤ 7 → step s = .next (begun 8 (1#8 <<< k.toNat) true))

/-- R149: the link sends the four bytes of REQ in order 0..3; REQ keeps them (D29). -/
def Obligations.LinkSendsTheRequestInOrder : Prop :=
  ∀ (ev : LinkEvent) (p : Purpose) (s : State) (f : Frame), s.req = .holding f → ev.failed = false →
    advanceWith ev (.writeFrame p) s =
      { s with line := { s.line with sent := s.line.sent ++ [f.code, f.address, f.data, f.checksum], input := s.line.input ++ ev.arrived },
               active := some (.readFrame p) }

/-- R203: a read that has not received 4 bytes is still waiting after any number of turns, and has changed neither register, handed back nothing
and begun nothing. -/
def Obligations.ReadWaitsForFourBytes : Prop :=
  ∀ (evs : List LinkEvent) (p : Purpose) (s : State), s.active = some (.readFrame p) → (∀ ev ∈ evs, ev.failed = false) →
    (s.line.input ++ evs.flatMap LinkEvent.arrived).length < 4 →
    turns evs s = { s with line := { s.line with input := s.line.input ++ evs.flatMap LinkEvent.arrived }, draws := s.draws + evs.length }

/-- R140 to R147, the whole of a pseudo-instruction whose exchange succeeds: from its encoding step, with the link opening the channel, taking the
frame, and sending bytes at whatever turns it likes (`reads` are the turns in which the read still waits; with none, four bytes or more may be there
already when the frame has been written, stale ones included, R201), the first four bytes `b0 b1 b2 b3` that came since the channel was opened are the
response, and what follows them is dropped. The turns are the model's, log entry 10, and so are the free bytes buffered when the channel opens, log
entry 11. The request is sent once and stays in REQ, the response is in RSP, the channel is closed, and the caller gets the raw
response and, if the command returns one, the state of the response's own data and address, whatever code, address and checksum came (R105,
R204). -/
def Obligations.CommandRunsToItsResult : Prop :=
  ∀ (s : State) (c a d : Byte) (w : Bool) (e0 eOpen eWrite eLast eDecode eState : LinkEvent) (reads : List LinkEvent)
    (b0 b1 b2 b3 : Byte) (dropped : List Byte),
    s.active = some (.encode c a d w) → c.toNat ≤ 8 →
    (∀ ev ∈ eOpen :: eWrite :: eLast :: reads, ev.failed = false) →
    (reads ≠ [] → (eOpen.arrived ++ eWrite.arrived ++ reads.flatMap LinkEvent.arrived).length < 4) →
    eOpen.arrived ++ eWrite.arrived ++ reads.flatMap LinkEvent.arrived ++ eLast.arrived = b0 :: b1 :: b2 :: b3 :: dropped →
    247 ≤ b0.toNat →
    ∃ n, turns ([e0, eOpen, eWrite] ++ reads ++ [eLast, eDecode, eState]) s =
      { s with req := .holding ⟨c, a, d, c ^^^ a ^^^ d⟩, rsp := .holding ⟨b0, b1, b2, b3⟩, active := none,
               handed := s.handed ++ [.composite ⟨b0, b1, b2, b3⟩ (if w then some ⟨fromByte b2, b1⟩ else none)],
               line := { channelOpen := false, input := [], sent := s.line.sent ++ [c, a, d, c ^^^ a ^^^ d] },
               draws := n }

/-- R169, R171, R206: the same pseudo-instruction, answered by four bytes that are no response: DecodeError is the only outcome, RSP_V is cleared,
and the request has been sent. Turns and buffer are log entries 10 and 11. -/
def Obligations.CommandEndsWithDecodeError : Prop :=
  ∀ (s : State) (c a d : Byte) (w : Bool) (e0 eOpen eWrite eLast eDecode : LinkEvent) (reads : List LinkEvent)
    (b0 b1 b2 b3 : Byte) (dropped : List Byte),
    s.active = some (.encode c a d w) → c.toNat ≤ 8 →
    (∀ ev ∈ eOpen :: eWrite :: eLast :: reads, ev.failed = false) →
    (reads ≠ [] → (eOpen.arrived ++ eWrite.arrived ++ reads.flatMap LinkEvent.arrived).length < 4) →
    eOpen.arrived ++ eWrite.arrived ++ reads.flatMap LinkEvent.arrived ++ eLast.arrived = b0 :: b1 :: b2 :: b3 :: dropped →
    b0.toNat < 247 →
    ∃ n, turns ([e0, eOpen, eWrite] ++ reads ++ [eLast, eDecode]) s =
      { s with req := .holding ⟨c, a, d, c ^^^ a ^^^ d⟩, rsp := .empty, active := none,
               handed := s.handed ++ [.error (.decode b0)],
               line := { channelOpen := false, input := [], sent := s.line.sent ++ [c, a, d, c ^^^ a ^^^ d] },
               draws := n }

/-- R149, table T216: an exchange a host issues by itself, with REQ_V = 1: REQ is sent, the first four bytes that come after the channel is opened are
handed back, and neither register changes. Turns and buffer are log entries 10 and 11. -/
def Obligations.HostExchangeRunsToItsResult : Prop :=
  ∀ (s : State) (rest : List Call) (f : Frame) (eOpen eWrite eLast : LinkEvent) (reads : List LinkEvent)
    (b0 b1 b2 b3 : Byte) (dropped : List Byte),
    s.active = none → s.pending = .linkExchange :: rest → s.req = .holding f →
    (∀ ev ∈ eOpen :: eWrite :: eLast :: reads, ev.failed = false) →
    (reads ≠ [] → (eOpen.arrived ++ eWrite.arrived ++ reads.flatMap LinkEvent.arrived).length < 4) →
    eOpen.arrived ++ eWrite.arrived ++ reads.flatMap LinkEvent.arrived ++ eLast.arrived = b0 :: b1 :: b2 :: b3 :: dropped →
    ∃ t n, step s = .next t ∧ turns ([eOpen, eWrite] ++ reads ++ [eLast]) t =
      { s with pending := rest, handed := s.handed ++ [.linkBytes ⟨b0, b1, b2, b3⟩],
               line := { channelOpen := false, input := [], sent := s.line.sent ++ [f.code, f.address, f.data, f.checksum] },
               draws := n }

/-- R164: an open, read or write failure ends the call, of whatever kind, with TransportError: the channel is closed, both registers are as they were,
nothing is retried. What has gone out is what the failing write had sent, `ev.wrote` of its bytes and no others; a failing open or read sends nothing. That
the input buffer stays as it is is log entry 11, that a failing INIT leaves the controller's marks log entry 15. -/
def Obligations.TransportFailureEndsTheCall : Prop :=
  ∀ (ev : LinkEvent) (s : State), ev.failed = true →
    let ended : List Byte → State := fun gone =>
      { s with active := none, handed := s.handed ++ [.error .transport],
               line := { s.line with channelOpen := false, sent := s.line.sent ++ gone } }
    (∀ p, advanceWith ev (.openLink p) s = ended []) ∧
    (∀ p f, s.req = .holding f → advanceWith ev (.writeFrame p) s = ended ([f.code, f.address, f.data, f.checksum].take ev.wrote)) ∧
    (∀ p, advanceWith ev (.readFrame p) s = ended []) ∧
    advanceWith ev (.handshake .opening) s = ended [] ∧
    (∀ k, advanceWith ev (.handshake (.setup k)) s = ended ([1].take ev.wrote)) ∧
    (∀ k, advanceWith ev (.handshake (.sync k)) s = ended ([1].take ev.wrote)) ∧
    ∀ k, advanceWith ev (.handshake (.scan k)) s = ended []

/-! ### The handshake -/

/-- R188, R190, R192: INIT begins whenever it is issued, opens the transport and discards the input, and its two waits only let bytes come in. -/
def Obligations.InitOpensDiscardsAndWaits : Prop :=
  (∀ (s : State) (rest : List Call), s.active = none → s.pending = .init :: rest →
    step s = .next { s with pending := rest, active := some (.handshake .opening) }) ∧
  ∀ (ev : LinkEvent) (s : State),
    (ev.failed = false → advanceWith ev (.handshake .opening) s =
      { s with line := { s.line with channelOpen := true, input := [] }, active := some (.handshake (.setup 0)) }) ∧
    advanceWith ev (.handshake .chainWait) s =
      { s with line := { s.line with input := s.line.input ++ ev.arrived }, active := some (.handshake (.sync 0)) } ∧
    advanceWith ev (.handshake .syncWait) s =
      { s with line := { s.line with input := s.line.input ++ ev.arrived }, active := some (.handshake (.scan 0)) }

/-- R189: each turn of step 2 sends one byte of value 1, and the loop is left when more than 3 bytes are buffered or the fourth has been sent. -/
def Obligations.InitSetupSendsAtMostFour : Prop :=
  ∀ (ev : LinkEvent) (k : Nat) (s : State), ev.failed = false →
    advanceWith ev (.handshake (.setup k)) s =
      { s with line := { s.line with sent := s.line.sent ++ [1], input := s.line.input ++ ev.arrived },
               active := some (.handshake (if 3 < (s.line.input ++ ev.arrived).length ∨ 4 ≤ k + 1 then .chainWait else .setup (k + 1))) }

/-- R191: exactly four bytes of value 1 are sent. -/
def Obligations.InitSyncSendsFour : Prop :=
  ∀ (s : State) (e1 e2 e3 e4 : LinkEvent), s.active = some (.handshake (.sync 0)) →
    (∀ ev ∈ [e1, e2, e3, e4], ev.failed = false) →
    (turns [e1, e2, e3, e4] s).line.sent = s.line.sent ++ [1, 1, 1, 1] ∧
    (turns [e1, e2, e3, e4] s).active = some (.handshake .syncWait)

/-- R193, R194: of the 4-byte chunks of the input, buffered before the scan or coming in during the first `j` of its turns, in whatever pieces, those before
the first whose byte 0 is 1 are passed over, and that one's byte 1 gives the count. A turn with fewer than 4 bytes waits (the other short reads of log
entry 14 are in InitScanTurnsCountAttempts); one turn takes one chunk, so `j` turns and one more for each chunk are enough. -/
def Obligations.InitScanStopsAtFirstEcho : Prop :=
  ∀ (passed : List Frame) (echo : Frame) (rest : List Byte) (k j : Nat) (evs : List LinkEvent) (s : State),
    s.active = some (.handshake (.scan k)) →
    s.line.input ++ (evs.take j).flatMap LinkEvent.arrived = passed.flatMap Frame.bytes ++ echo.bytes ++ rest →
    (∀ f ∈ passed, f.code ≠ 1) → echo.code = 1 → k + passed.length < 256 → j + passed.length + 1 ≤ evs.length →
    (∀ ev ∈ evs, ev.failed = false ∧ ev.shortRead = none) →
    ∃ m, m ≤ evs.length ∧
      (turns (evs.take m) s).active = some (.handshake (.closing (if echo.address = 0 then 255 else (echo.address.toNat : Int) - 1)))

/-- R193, R196: after 256 chunks of which none has byte 0 equal to 1, buffered before the scan or coming in during its first `j` turns, the count is -1. -/
def Obligations.InitScanGivesUpAfter256 : Prop :=
  ∀ (passed : List Frame) (rest : List Byte) (j : Nat) (evs : List LinkEvent) (s : State),
    s.active = some (.handshake (.scan 0)) →
    s.line.input ++ (evs.take j).flatMap LinkEvent.arrived = passed.flatMap Frame.bytes ++ rest →
    (∀ f ∈ passed, f.code ≠ 1) → passed.length = 256 → j + 256 ≤ evs.length →
    (∀ ev ∈ evs, ev.failed = false ∧ ev.shortRead = none) →
    ∃ m, m ≤ evs.length ∧ (turns (evs.take m) s).active = some (.handshake (.closing (-1)))

/-- R193, R196, and log entry 14 for the short reads: after any turns of the scan that fail nowhere and bring no echo, `n` attempts have been made, `left` is
left in the input and nothing else has changed, as long as fewer than 256 have been made; the next turn then ends the scan with the echo's count if it
takes one, and with -1 if it is the 256th attempt, by a chunk or by a short read, and brings none; and with too few bytes and no short read it waits. -/
def Obligations.InitScanTurnsCountAttempts : Prop :=
  ∀ (evs : List LinkEvent) (s : State) (k n : Nat) (left : List Byte),
    s.active = some (.handshake (.scan k)) → scanOver evs s.line.input = some (n, left) → k + n < 256 →
    turns evs s = { s with active := some (.handshake (.scan (k + n))), line := { s.line with input := left }, draws := s.draws + evs.length } ∧
    ∀ last : LinkEvent, last.failed = false →
      (∀ b0 b1 b2 b3 rest, left ++ last.arrived = b0 :: b1 :: b2 :: b3 :: rest → b0 = 1 →
        (turns (evs ++ [last]) s).active = some (.handshake (.closing (if b1 = 0 then 255 else (b1.toNat : Int) - 1)))) ∧
      (∀ b0 b1 b2 b3 rest, left ++ last.arrived = b0 :: b1 :: b2 :: b3 :: rest → b0 ≠ 1 → k + n = 255 →
        (turns (evs ++ [last]) s).active = some (.handshake (.closing (-1)))) ∧
      ((left ++ last.arrived).length < 4 → last.shortRead ≠ none → k + n = 255 →
        (turns (evs ++ [last]) s).active = some (.handshake (.closing (-1)))) ∧
      ((left ++ last.arrived).length < 4 → last.shortRead = none →
        (turns (evs ++ [last]) s).active = some (.handshake (.scan (k + n))))

/-- R195, R196: steps 7 and 8. -/
def Obligations.InitClosesAndMarks : Prop :=
  ∀ (ev : LinkEvent) (n : Int) (s : State),
    advanceWith ev (.handshake (.closing n)) s =
      { s with line := { s.line with channelOpen := false, input := [] }, initialized := decide (1 ≤ n), detectedCount := n,
               active := none, handed := s.handed ++ [.count n] }

/-- R199: INIT neither reads nor writes REQ, RSP or their valid bits: with any other contents of the two registers each of its turns does the same and
leaves them as they are. It runs no block operation: a turn hands back nothing, INIT's count or TransportError. The byte it sends is the
request value of Setup, and four of them are an encoded Setup frame. -/
def Obligations.InitNeitherReadsNorWritesTheRegisters : Prop :=
  ∀ (ev : LinkEvent) (ph : InitPhase) (s : State) (q r : FrameReg),
    (advanceWith ev (.handshake ph) s).req = s.req ∧ (advanceWith ev (.handshake ph) s).rsp = s.rsp ∧
    advanceWith ev (.handshake ph) { s with req := q, rsp := r } = { advanceWith ev (.handshake ph) s with req := q, rsp := r } ∧
    ((advanceWith ev (.handshake ph) s).handed = s.handed ∨ (∃ n, (advanceWith ev (.handshake ph) s).handed = s.handed ++ [.count n]) ∨
      (advanceWith ev (.handshake ph) s).handed = s.handed ++ [.error .transport]) ∧
    (∀ a d, decodeFrame ⟨setupByte, a, d, chk setupByte a d⟩ = .ok (.setup a d)) ∧
    (requestFrame setupByte setupByte setupByte).bytes = [setupByte, setupByte, setupByte, setupByte]

/-- R196: the detected count as a function of the reported address. -/
def Obligations.DetectedCountOfReportedAddress : Prop :=
  detectedCountOf 0 = 255 ∧
  ∀ r : Byte, (r ≠ 0 → detectedCountOf r = (r.toNat : Int) - 1) ∧ 0 ≤ detectedCountOf r ∧ detectedCountOf r ≤ 255
end

