-- ==== Sys2Proof/Laws/State.lean ====
section
/-!
SUPPORT. Each field of the state after each named update, once, so that no proof unfolds a record update.
-/

namespace Sys2Proof.Machine

variable (s : State)

@[simp] theorem State.handBack_req (h : Handed) : (s.handBack h).req = s.req := rfl
@[simp] theorem State.handBack_rsp (h : Handed) : (s.handBack h).rsp = s.rsp := rfl
@[simp] theorem State.handBack_pending (h : Handed) : (s.handBack h).pending = s.pending := rfl
@[simp] theorem State.handBack_active (h : Handed) : (s.handBack h).active = s.active := rfl
@[simp] theorem State.handBack_handed (h : Handed) : (s.handBack h).handed = s.handed ++ [h] := rfl
@[simp] theorem State.handBack_line (h : Handed) : (s.handBack h).line = s.line := rfl
@[simp] theorem State.handBack_initialized (h : Handed) : (s.handBack h).initialized = s.initialized := rfl
@[simp] theorem State.handBack_detectedCount (h : Handed) : (s.handBack h).detectedCount = s.detectedCount := rfl
@[simp] theorem State.handBack_draws (h : Handed) : (s.handBack h).draws = s.draws := rfl

@[simp] theorem State.setReq_req (r : FrameReg) : (s.setReq r).req = r := rfl
@[simp] theorem State.setReq_rsp (r : FrameReg) : (s.setReq r).rsp = s.rsp := rfl
@[simp] theorem State.setReq_pending (r : FrameReg) : (s.setReq r).pending = s.pending := rfl
@[simp] theorem State.setReq_active (r : FrameReg) : (s.setReq r).active = s.active := rfl
@[simp] theorem State.setReq_handed (r : FrameReg) : (s.setReq r).handed = s.handed := rfl
@[simp] theorem State.setReq_line (r : FrameReg) : (s.setReq r).line = s.line := rfl
@[simp] theorem State.setReq_initialized (r : FrameReg) : (s.setReq r).initialized = s.initialized := rfl
@[simp] theorem State.setReq_detectedCount (r : FrameReg) : (s.setReq r).detectedCount = s.detectedCount := rfl
@[simp] theorem State.setReq_draws (r : FrameReg) : (s.setReq r).draws = s.draws := rfl

@[simp] theorem State.setRsp_req (r : FrameReg) : (s.setRsp r).req = s.req := rfl
@[simp] theorem State.setRsp_rsp (r : FrameReg) : (s.setRsp r).rsp = r := rfl
@[simp] theorem State.setRsp_pending (r : FrameReg) : (s.setRsp r).pending = s.pending := rfl
@[simp] theorem State.setRsp_active (r : FrameReg) : (s.setRsp r).active = s.active := rfl
@[simp] theorem State.setRsp_handed (r : FrameReg) : (s.setRsp r).handed = s.handed := rfl
@[simp] theorem State.setRsp_line (r : FrameReg) : (s.setRsp r).line = s.line := rfl
@[simp] theorem State.setRsp_initialized (r : FrameReg) : (s.setRsp r).initialized = s.initialized := rfl
@[simp] theorem State.setRsp_detectedCount (r : FrameReg) : (s.setRsp r).detectedCount = s.detectedCount := rfl
@[simp] theorem State.setRsp_draws (r : FrameReg) : (s.setRsp r).draws = s.draws := rfl

@[simp] theorem State.setPending_req (cs : List Call) : (s.setPending cs).req = s.req := rfl
@[simp] theorem State.setPending_rsp (cs : List Call) : (s.setPending cs).rsp = s.rsp := rfl
@[simp] theorem State.setPending_pending (cs : List Call) : (s.setPending cs).pending = cs := rfl
@[simp] theorem State.setPending_active (cs : List Call) : (s.setPending cs).active = s.active := rfl
@[simp] theorem State.setPending_handed (cs : List Call) : (s.setPending cs).handed = s.handed := rfl
@[simp] theorem State.setPending_line (cs : List Call) : (s.setPending cs).line = s.line := rfl
@[simp] theorem State.setPending_initialized (cs : List Call) : (s.setPending cs).initialized = s.initialized := rfl
@[simp] theorem State.setPending_detectedCount (cs : List Call) : (s.setPending cs).detectedCount = s.detectedCount := rfl
@[simp] theorem State.setPending_draws (cs : List Call) : (s.setPending cs).draws = s.draws := rfl

@[simp] theorem State.setActive_req (a : Option Activity) : (s.setActive a).req = s.req := rfl
@[simp] theorem State.setActive_rsp (a : Option Activity) : (s.setActive a).rsp = s.rsp := rfl
@[simp] theorem State.setActive_pending (a : Option Activity) : (s.setActive a).pending = s.pending := rfl
@[simp] theorem State.setActive_active (a : Option Activity) : (s.setActive a).active = a := rfl
@[simp] theorem State.setActive_handed (a : Option Activity) : (s.setActive a).handed = s.handed := rfl
@[simp] theorem State.setActive_line (a : Option Activity) : (s.setActive a).line = s.line := rfl
@[simp] theorem State.setActive_initialized (a : Option Activity) : (s.setActive a).initialized = s.initialized := rfl
@[simp] theorem State.setActive_detectedCount (a : Option Activity) : (s.setActive a).detectedCount = s.detectedCount := rfl
@[simp] theorem State.setActive_draws (a : Option Activity) : (s.setActive a).draws = s.draws := rfl

@[simp] theorem State.setLine_req (l : Line) : (s.setLine l).req = s.req := rfl
@[simp] theorem State.setLine_rsp (l : Line) : (s.setLine l).rsp = s.rsp := rfl
@[simp] theorem State.setLine_pending (l : Line) : (s.setLine l).pending = s.pending := rfl
@[simp] theorem State.setLine_active (l : Line) : (s.setLine l).active = s.active := rfl
@[simp] theorem State.setLine_handed (l : Line) : (s.setLine l).handed = s.handed := rfl
@[simp] theorem State.setLine_line (l : Line) : (s.setLine l).line = l := rfl
@[simp] theorem State.setLine_initialized (l : Line) : (s.setLine l).initialized = s.initialized := rfl
@[simp] theorem State.setLine_detectedCount (l : Line) : (s.setLine l).detectedCount = s.detectedCount := rfl
@[simp] theorem State.setLine_draws (l : Line) : (s.setLine l).draws = s.draws := rfl

@[simp] theorem State.setCount_req (n : Int) : (s.setCount n).req = s.req := rfl
@[simp] theorem State.setCount_rsp (n : Int) : (s.setCount n).rsp = s.rsp := rfl
@[simp] theorem State.setCount_pending (n : Int) : (s.setCount n).pending = s.pending := rfl
@[simp] theorem State.setCount_active (n : Int) : (s.setCount n).active = s.active := rfl
@[simp] theorem State.setCount_handed (n : Int) : (s.setCount n).handed = s.handed := rfl
@[simp] theorem State.setCount_line (n : Int) : (s.setCount n).line = s.line := rfl
@[simp] theorem State.setCount_initialized (n : Int) : (s.setCount n).initialized = decide (1 ≤ n) := rfl
@[simp] theorem State.setCount_detectedCount (n : Int) : (s.setCount n).detectedCount = n := rfl
@[simp] theorem State.setCount_draws (n : Int) : (s.setCount n).draws = s.draws := rfl

@[simp] theorem State.nextDraw_req : (s.nextDraw).req = s.req := rfl
@[simp] theorem State.nextDraw_rsp : (s.nextDraw).rsp = s.rsp := rfl
@[simp] theorem State.nextDraw_pending : (s.nextDraw).pending = s.pending := rfl
@[simp] theorem State.nextDraw_active : (s.nextDraw).active = s.active := rfl
@[simp] theorem State.nextDraw_handed : (s.nextDraw).handed = s.handed := rfl
@[simp] theorem State.nextDraw_line : (s.nextDraw).line = s.line := rfl
@[simp] theorem State.nextDraw_initialized : (s.nextDraw).initialized = s.initialized := rfl
@[simp] theorem State.nextDraw_detectedCount : (s.nextDraw).detectedCount = s.detectedCount := rfl
@[simp] theorem State.nextDraw_draws : (s.nextDraw).draws = s.draws + 1 := rfl

@[simp] theorem State.setPhase_eq (ph : InitPhase) : s.setPhase ph = s.setActive (some (.handshake ph)) := rfl
@[simp] theorem State.complete_eq (h : Handed) : s.complete h = (s.setActive none).handBack h := rfl
@[simp] theorem State.raise_eq (e : Err) : s.raise e = s.handBack (.error e) := rfl
@[simp] theorem State.abort_eq (e : Err) : s.abort e = (s.setActive none).handBack (.error e) := rfl

@[simp] theorem State.transportFailure_eq (bs : List Byte) :
    s.transportFailure bs = ((s.setLine ((s.line.write bs).close)).setActive none).handBack (.error .transport) := rfl

variable (l : Line) (bs : List Byte)

@[simp] theorem Line.write_channelOpen : (l.write bs).channelOpen = l.channelOpen := rfl
@[simp] theorem Line.write_input : (l.write bs).input = l.input := rfl
@[simp] theorem Line.write_sent : (l.write bs).sent = l.sent ++ bs := rfl
@[simp] theorem Line.receive_channelOpen : (l.receive bs).channelOpen = l.channelOpen := rfl
@[simp] theorem Line.receive_input : (l.receive bs).input = l.input ++ bs := rfl
@[simp] theorem Line.receive_sent : (l.receive bs).sent = l.sent := rfl
@[simp] theorem Line.setInput_channelOpen : (l.setInput bs).channelOpen = l.channelOpen := rfl
@[simp] theorem Line.setInput_input : (l.setInput bs).input = bs := rfl
@[simp] theorem Line.setInput_sent : (l.setInput bs).sent = l.sent := rfl
@[simp] theorem Line.openWith_channelOpen : (l.openWith bs).channelOpen = true := rfl
@[simp] theorem Line.openWith_input : (l.openWith bs).input = bs := rfl
@[simp] theorem Line.openWith_sent : (l.openWith bs).sent = l.sent := rfl
@[simp] theorem Line.close_channelOpen : (l.close).channelOpen = false := rfl
@[simp] theorem Line.close_input : (l.close).input = l.input := rfl
@[simp] theorem Line.close_sent : (l.close).sent = l.sent := rfl
@[simp] theorem Line.flushClose_channelOpen : (l.flushClose).channelOpen = false := rfl
@[simp] theorem Line.flushClose_input : (l.flushClose).input = [] := rfl
@[simp] theorem Line.flushClose_sent : (l.flushClose).sent = l.sent := rfl

@[simp] theorem FrameReg.valid_empty : FrameReg.empty.valid = false := rfl
@[simp] theorem FrameReg.valid_holding (f : Frame) : (FrameReg.holding f).valid = true := rfl

end Sys2Proof.Machine
end

