-- ==== Sys2Proof/Laws/Ops.lean ====
section
/-!
SUPPORT. One lemma for each shared operation, saying everything it can do.
-/

namespace Sys2Proof.Machine

theorem isReqCommand_iff (b : Byte) : isReqCommand b = true ↔ b.toNat ≤ 8 := by simp [isReqCommand]

theorem isRspCode_iff (b : Byte) : isRspCode b = true ↔ 247 ≤ b.toNat := by simp [isRspCode]

theorem addressRefused_iff (a : Byte) : addressRefused a = true ↔ a = 0 := by simp [addressRefused]

theorem portIndexRefused_iff (k : Byte) : portIndexRefused k = true ↔ 7 < k.toNat := by simp [portIndexRefused]

theorem encodeRequest_ok {c : Byte} (a d : Byte) (s : State) (h : c.toNat ≤ 8) :
    encodeRequest c a d s = (s.setReq (.holding (requestFrame c a d)), .ok (requestFrame c a d)) := by
  simp [encodeRequest, isReqCommand, h]

theorem encodeRequest_error {c : Byte} (a d : Byte) (s : State) (h : ¬ c.toNat ≤ 8) :
    encodeRequest c a d s = (s.setReq .empty, .error (.configuration c)) := by
  simp [encodeRequest, isReqCommand, h]

theorem decodeResponse_ok {f : Frame} (s : State) (h : 247 ≤ f.code.toNat) :
    decodeResponse f s = (s.setRsp (.holding f), .ok f) := by
  simp [decodeResponse, isRspCode, h]

theorem decodeResponse_error {f : Frame} (s : State) (h : ¬ 247 ≤ f.code.toNat) :
    decodeResponse f s = (s.setRsp .empty, .error (.decode f.code)) := by
  simp [decodeResponse, isRspCode, h]

/-- The end of an operation always answers a next state that only has one more outcome handed back. -/
theorem finish_eq (x : Except Err Handed) (s : State) :
    ∃ h, finish x s = .next (s.handBack h) ∧ (x = .ok h ∨ ∃ e, x = .error e ∧ h = .error e) := by
  cases x with
  | ok h => exact ⟨h, rfl, .inl rfl⟩
  | error e => exact ⟨.error e, rfl, .inr ⟨e, rfl, rfl⟩⟩

theorem issueEncode_ok {c : Byte} (a d : Byte) (s : State) (h : c.toNat ≤ 8) :
    issueEncode c a d s = .next ((s.setReq (.holding (requestFrame c a d))).handBack (.request (requestFrame c a d))) := by
  simp [issueEncode, encodeRequest_ok a d s h, finish, Except.map]

theorem issueEncode_error {c : Byte} (a d : Byte) (s : State) (h : ¬ c.toNat ≤ 8) :
    issueEncode c a d s = .next ((s.setReq .empty).handBack (.error (.configuration c))) := by
  simp [issueEncode, encodeRequest_error a d s h, finish, Except.map]

theorem issueDecode_ok {f : Frame} (s : State) (h : 247 ≤ f.code.toNat) :
    issueDecode f s = .next ((s.setRsp (.holding f)).handBack (.response f)) := by
  simp [issueDecode, decodeResponse_ok s h, finish, Except.map]

theorem issueDecode_error {f : Frame} (s : State) (h : ¬ 247 ≤ f.code.toNat) :
    issueDecode f s = .next ((s.setRsp .empty).handBack (.error (.decode f.code))) := by
  simp [issueDecode, decodeResponse_error s h, finish, Except.map]

theorem readRsp_cases (s : State) :
    (s.rsp = .empty ∧ readRsp s = .error (.noValue .rsp)) ∨ ∃ f, s.rsp = .holding f ∧ readRsp s = .ok f := by
  unfold readRsp
  cases s.rsp <;> simp

theorem readReq_cases (s : State) :
    (s.req = .empty ∧ readReq s = .error (.noValue .req)) ∨ ∃ f, s.req = .holding f ∧ readReq s = .ok f := by
  unfold readReq
  cases s.req <;> simp

end Sys2Proof.Machine
end

