-- ==== Sys2Proof/Laws/Exec.lean ====
section
/-!
SUPPORT. What executing an instruction can be: one of four shapes over the shared operations.
-/

namespace Sys2Proof.Machine

/-- Executing an instruction is building a request, decoding a response, handing back a result of the operands alone, or handing back something read
from RSP; and only the first writes REQ and only the second RSP. -/
theorem exec_forms (i : Instr) :
    (∃ c a d, (∀ s, exec i s = issueEncode c a d s) ∧ i.writesReq = true ∧ i.writesRsp = false) ∨
    (∃ f, (∀ s, exec i s = issueDecode f s) ∧ i.writesReq = false ∧ i.writesRsp = true) ∨
    (∃ x, (∀ s, exec i s = finish x s) ∧ i.writesReq = false ∧ i.writesRsp = false) ∨
    (∃ g : Frame → Handed, (∀ s, exec i s = finish ((readRsp s).map g) s) ∧ i.writesReq = false ∧ i.writesRsp = false) := by
  cases i with
  | nop a d => exact .inl ⟨0, a, d, fun _ => rfl, rfl, rfl⟩
  | setup a d => exact .inl ⟨1, a, d, fun _ => rfl, rfl, rfl⟩
  | getport a d => exact .inl ⟨2, a, d, fun _ => rfl, rfl, rfl⟩
  | setport a d => exact .inl ⟨3, a, d, fun _ => rfl, rfl, rfl⟩
  | getoption a d => exact .inl ⟨4, a, d, fun _ => rfl, rfl, rfl⟩
  | setoption a d => exact .inl ⟨5, a, d, fun _ => rfl, rfl, rfl⟩
  | setsingle a d => exact .inl ⟨6, a, d, fun _ => rfl, rfl, rfl⟩
  | delsingle a d => exact .inl ⟨7, a, d, fun _ => rfl, rfl, rfl⟩
  | toggle a d => exact .inl ⟨8, a, d, fun _ => rfl, rfl, rfl⟩
  | rNop a d k => exact .inr (.inl ⟨⟨255, a, d, k⟩, fun _ => rfl, rfl, rfl⟩)
  | rSetup a d k => exact .inr (.inl ⟨⟨254, a, d, k⟩, fun _ => rfl, rfl, rfl⟩)
  | rGetport a d k => exact .inr (.inl ⟨⟨253, a, d, k⟩, fun _ => rfl, rfl, rfl⟩)
  | rSetport a d k => exact .inr (.inl ⟨⟨252, a, d, k⟩, fun _ => rfl, rfl, rfl⟩)
  | rGetoption a d k => exact .inr (.inl ⟨⟨251, a, d, k⟩, fun _ => rfl, rfl, rfl⟩)
  | rSetoption a d k => exact .inr (.inl ⟨⟨250, a, d, k⟩, fun _ => rfl, rfl, rfl⟩)
  | rSetsingle a d k => exact .inr (.inl ⟨⟨249, a, d, k⟩, fun _ => rfl, rfl, rfl⟩)
  | rDelsingle a d k => exact .inr (.inl ⟨⟨248, a, d, k⟩, fun _ => rfl, rfl, rfl⟩)
  | rToggle a d k => exact .inr (.inl ⟨⟨247, a, d, k⟩, fun _ => rfl, rfl, rfl⟩)
  | reqEncode c a d => exact .inl ⟨c, a, d, fun _ => rfl, rfl, rfl⟩
  | rspDecode f => exact .inr (.inl ⟨f, fun _ => rfl, rfl, rfl⟩)
  | rsFromByte b => exact .inr (.inr (.inl ⟨.ok (.ports (fromByte b)), fun _ => rfl, rfl, rfl⟩))
  | rsToByte p => exact .inr (.inr (.inl ⟨.ok (.byte (toByte p)), fun _ => rfl, rfl, rfl⟩))
  | rsMake p a =>
    exact .inr (.inr (.inl ⟨if addressRefused a then .error (.configuration a) else .ok (.relayState ⟨p, a⟩), fun _ => rfl, rfl, rfl⟩))
  | rsOnehot a k => exact .inr (.inr (.inl ⟨(onehot a k).map .relayState, fun _ => rfl, rfl, rfl⟩))
  | rspClass => exact .inr (.inr (.inr ⟨fun f => .command (cmdOfRspCode f.code), fun _ => rfl, rfl, rfl⟩))
  | rspState => exact .inr (.inr (.inr ⟨fun f => .relayState (relayStateOf f), fun _ => rfl, rfl, rfl⟩))

end Sys2Proof.Machine
end

