-- ==== Sys2Proof/Laws/PerInstr.lean ====
section
/-!
SUPPORT. Per instruction: every word that agrees with the instruction's word in the bits its row of the opcode table fixes decodes to an
instruction of that row, whatever its other bits are. And the instruction's own word is such a word.
-/

namespace Sys2Proof.Laws.RowCovered

/-- Every word of the instruction's row decodes, and to an instruction of that row. -/
def Statement (i : Instr) : Prop :=
  (encode i).sameRow (encode i) = true ∧
    ∀ w, w.sameRow (encode i) = true → ∃ j, decode w = .ok j ∧ (encode j).sameRow (encode i) = true

theorem frame_row {f : Frame} {i : Instr} (hi : encode i = .frame f)
    (h : ∀ g : Frame, g.code = f.code → ∃ j, decodeFrame g = .ok j ∧ (encode j).sameRow (.frame f) = true) : Statement i := by
  refine ⟨by simp [hi, IssueWord.sameRow], fun w hw => ?_⟩
  rw [hi] at hw ⊢
  cases w with
  | op => simp [IssueWord.sameRow] at hw
  | frame g => exact h g (by simpa [IssueWord.sameRow] using hw)

theorem op_row {sel q0 q1 q2 q3 : Byte} {i : Instr} (hi : encode i = .op sel q0 q1 q2 q3)
    (h : ∀ p0 p1 p2 p3, ∃ j, decodeOp sel p0 p1 p2 p3 = .ok j ∧ (encode j).sameRow (.op sel q0 q1 q2 q3) = true) : Statement i := by
  refine ⟨by simp [hi, IssueWord.sameRow], fun w hw => ?_⟩
  rw [hi] at hw ⊢
  cases w with
  | frame => simp [IssueWord.sameRow] at hw
  | op sel' p0 p1 p2 p3 =>
    obtain rfl : sel' = sel := by simpa [IssueWord.sameRow] using hw
    exact h p0 p1 p2 p3

theorem nop (a d : Byte) : Statement (.nop a d) :=
  frame_row rfl fun g hg => ⟨.nop g.address g.data, by simp [decodeFrame, hg, requestFrame], rfl⟩

theorem setup (a d : Byte) : Statement (.setup a d) :=
  frame_row rfl fun g hg => ⟨.setup g.address g.data, by simp [decodeFrame, hg, requestFrame], rfl⟩

theorem getport (a d : Byte) : Statement (.getport a d) :=
  frame_row rfl fun g hg => ⟨.getport g.address g.data, by simp [decodeFrame, hg, requestFrame], rfl⟩

theorem setport (a d : Byte) : Statement (.setport a d) :=
  frame_row rfl fun g hg => ⟨.setport g.address g.data, by simp [decodeFrame, hg, requestFrame], rfl⟩

theorem getoption (a d : Byte) : Statement (.getoption a d) :=
  frame_row rfl fun g hg => ⟨.getoption g.address g.data, by simp [decodeFrame, hg, requestFrame], rfl⟩

theorem setoption (a d : Byte) : Statement (.setoption a d) :=
  frame_row rfl fun g hg => ⟨.setoption g.address g.data, by simp [decodeFrame, hg, requestFrame], rfl⟩

theorem setsingle (a d : Byte) : Statement (.setsingle a d) :=
  frame_row rfl fun g hg => ⟨.setsingle g.address g.data, by simp [decodeFrame, hg, requestFrame], rfl⟩

theorem delsingle (a d : Byte) : Statement (.delsingle a d) :=
  frame_row rfl fun g hg => ⟨.delsingle g.address g.data, by simp [decodeFrame, hg, requestFrame], rfl⟩

theorem toggle (a d : Byte) : Statement (.toggle a d) :=
  frame_row rfl fun g hg => ⟨.toggle g.address g.data, by simp [decodeFrame, hg, requestFrame], rfl⟩

theorem rNop (a d k : Byte) : Statement (.rNop a d k) :=
  frame_row rfl fun g hg => ⟨.rNop g.address g.data g.checksum, by simp [decodeFrame, hg], rfl⟩

theorem rSetup (a d k : Byte) : Statement (.rSetup a d k) :=
  frame_row rfl fun g hg => ⟨.rSetup g.address g.data g.checksum, by simp [decodeFrame, hg], rfl⟩

theorem rGetport (a d k : Byte) : Statement (.rGetport a d k) :=
  frame_row rfl fun g hg => ⟨.rGetport g.address g.data g.checksum, by simp [decodeFrame, hg], rfl⟩

theorem rSetport (a d k : Byte) : Statement (.rSetport a d k) :=
  frame_row rfl fun g hg => ⟨.rSetport g.address g.data g.checksum, by simp [decodeFrame, hg], rfl⟩

theorem rGetoption (a d k : Byte) : Statement (.rGetoption a d k) :=
  frame_row rfl fun g hg => ⟨.rGetoption g.address g.data g.checksum, by simp [decodeFrame, hg], rfl⟩

theorem rSetoption (a d k : Byte) : Statement (.rSetoption a d k) :=
  frame_row rfl fun g hg => ⟨.rSetoption g.address g.data g.checksum, by simp [decodeFrame, hg], rfl⟩

theorem rSetsingle (a d k : Byte) : Statement (.rSetsingle a d k) :=
  frame_row rfl fun g hg => ⟨.rSetsingle g.address g.data g.checksum, by simp [decodeFrame, hg], rfl⟩

theorem rDelsingle (a d k : Byte) : Statement (.rDelsingle a d k) :=
  frame_row rfl fun g hg => ⟨.rDelsingle g.address g.data g.checksum, by simp [decodeFrame, hg], rfl⟩

theorem rToggle (a d k : Byte) : Statement (.rToggle a d k) :=
  frame_row rfl fun g hg => ⟨.rToggle g.address g.data g.checksum, by simp [decodeFrame, hg], rfl⟩

theorem rsFromByte (b : Byte) : Statement (.rsFromByte b) :=
  op_row rfl fun _ _ _ _ => ⟨_, rfl, rfl⟩

theorem rsToByte (p : Ports) : Statement (.rsToByte p) :=
  op_row rfl fun _ _ _ _ => ⟨_, rfl, rfl⟩

theorem rsMake (p : Ports) (a : Byte) : Statement (.rsMake p a) :=
  op_row rfl fun _ _ _ _ => ⟨_, rfl, rfl⟩

theorem rsOnehot (a : Byte) (k : Byte) : Statement (.rsOnehot a k) :=
  op_row rfl fun _ _ _ _ => ⟨_, rfl, rfl⟩

theorem reqEncode (c : Byte) (a : Byte) (d : Byte) : Statement (.reqEncode c a d) :=
  op_row rfl fun _ _ _ _ => ⟨_, rfl, rfl⟩

theorem rspDecode (f : Frame) : Statement (.rspDecode f) :=
  op_row rfl fun _ _ _ _ => ⟨_, rfl, rfl⟩

theorem rspClass : Statement .rspClass :=
  op_row rfl fun _ _ _ _ => ⟨_, rfl, rfl⟩

theorem rspState : Statement .rspState :=
  op_row rfl fun _ _ _ _ => ⟨_, rfl, rfl⟩

end Sys2Proof.Laws.RowCovered
end

