-- ==== Sys2Proof/Laws/Step.lean ====
section
/-!
SUPPORT. The inversion of step, and of the call in progress where the link's turns split.
-/

namespace Sys2Proof.Machine

theorem step_during {s : State} {a : Activity} (h : s.active = some a) :
    step s = duringCall (Config.othersFirst s.draws) s.linkEvent a s.nextDraw := by
  simp [step, h]

/-- A step with a call in progress is a turn of it, or the whole of another call that can be run meanwhile. -/
theorem duringCall_cases (b : Bool) (ev : LinkEvent) (a : Activity) (s : State) :
    duringCall b ev a s = .next (advanceWith ev a s) ∨
    ∃ c rest, s.pending = c :: rest ∧ c.runsBetween = true ∧ b = true ∧ duringCall b ev a s = issue c (s.setPending rest) := by
  unfold duringCall
  cases hp : s.pending with
  | nil => exact .inl rfl
  | cons c rest =>
    by_cases h : (c.runsBetween && b) = true
    · exact .inr ⟨c, rest, rfl, (Bool.and_eq_true_iff.mp h).1, (Bool.and_eq_true_iff.mp h).2, by simp [h]⟩
    · exact .inl (by simp [h])

theorem beginCommand_refused {c a d : Byte} {w : Bool} (s : State) (h : addressRefused a = true) :
    beginCommand c a d w s = s.raise (.configuration a) := by
  simp [beginCommand, h]

theorem beginToggle1_refused {a k b : Byte} (s : State) (h : onehotOffence a k = some b) :
    beginToggle1 a k s = s.raise (.configuration b) := by
  simp [beginToggle1, onehot, h]

/-- The calls that can be run while another is in progress: guarded words that write no frame register, unguarded words, and refused commands. -/
theorem runsBetween_cases {c : Call} (h : c.runsBetween = true) :
    (∃ w i, c = .word w ∧ decode w = .ok i ∧ i.writesReq = false ∧ i.writesRsp = false ∧ ∀ s, issue c s = exec i s) ∨
    (∃ w i, c = .unguarded w ∧ decode w = .ok i ∧ ∀ s, issue c s = exec i s) ∨
    ∃ b, ∀ s, issue c s = .next (s.raise (.configuration b)) := by
  cases c with
  | word w =>
    cases hd : decode w with
    | error r => simp [Call.runsBetween, hd] at h
    | ok i =>
      simp only [Call.runsBetween, hd, Bool.not_eq_true', Bool.or_eq_false_iff] at h
      exact .inl ⟨w, i, rfl, hd, h.1, h.2, fun s => by simp [issue, issueWord, hd]⟩
  | unguarded w =>
    cases hd : decode w with
    | error r => simp [Call.runsBetween, hd] at h
    | ok i => exact .inr (.inl ⟨w, i, rfl, hd, fun s => by simp [issue, issueWord, hd]⟩)
  | cmdSetPort r => exact .inr (.inr ⟨_, fun s => congrArg _ (beginCommand_refused s h)⟩)
  | cmdGetPort a => exact .inr (.inr ⟨_, fun s => congrArg _ (beginCommand_refused s h)⟩)
  | cmdSetSingle r => exact .inr (.inr ⟨_, fun s => congrArg _ (beginCommand_refused s h)⟩)
  | cmdDelSingle r => exact .inr (.inr ⟨_, fun s => congrArg _ (beginCommand_refused s h)⟩)
  | cmdToggle r => exact .inr (.inr ⟨_, fun s => congrArg _ (beginCommand_refused s h)⟩)
  | cmdToggle1 a k =>
    obtain ⟨b, hb⟩ := Option.isSome_iff_exists.mp h
    exact .inr (.inr ⟨b, fun s => congrArg _ (beginToggle1_refused s hb)⟩)
  | linkExchange => cases h
  | init => cases h

theorem step_idle {s : State} (ha : s.active = none) (hp : s.pending = []) : step s = .next s := by
  simp [step, ha, beginNext, hp]

theorem step_begin {s : State} {c : Call} {rest : List Call} (ha : s.active = none) (hp : s.pending = c :: rest) :
    step s = issue c (s.setPending rest) := by
  simp [step, ha, beginNext, hp]

/-- Everything a step can be: a turn of the call in progress, waiting for a host, beginning the next call, or another host's call run between two
turns. -/
theorem step_cases (s : State) :
    (∃ a, s.active = some a ∧ step s = .next (advanceWith s.linkEvent a s.nextDraw)) ∨
    (s.active = none ∧ s.pending = [] ∧ step s = .next s) ∨
    (∃ c rest, s.active = none ∧ s.pending = c :: rest ∧ step s = issue c (s.setPending rest)) ∨
    (∃ a c rest, s.active = some a ∧ s.pending = c :: rest ∧ c.runsBetween = true ∧ step s = issue c (s.nextDraw.setPending rest)) := by
  cases ha : s.active with
  | some a =>
    rcases duringCall_cases (Config.othersFirst s.draws) s.linkEvent a s.nextDraw with e | ⟨c, rest, hp, hc, _, e⟩
    · exact .inl ⟨a, rfl, (step_during ha).trans e⟩
    · exact .inr (.inr (.inr ⟨a, c, rest, rfl, hp, hc, (step_during ha).trans e⟩))
  | none =>
    cases hp : s.pending with
    | nil => exact .inr (.inl ⟨rfl, rfl, step_idle ha hp⟩)
    | cons c rest => exact .inr (.inr (.inl ⟨c, rest, rfl, rfl, step_begin ha hp⟩))

/-- A read turn fails, takes the first four bytes that have come, or goes on waiting. -/
theorem linkRead_cases (ev : LinkEvent) (p : Purpose) (s : State) :
    (ev.failed = true ∧ linkRead ev p s = s.transportFailure []) ∨
    (ev.failed = false ∧ ∃ b0 b1 b2 b3 rest, s.line.input ++ ev.arrived = b0 :: b1 :: b2 :: b3 :: rest ∧
      linkRead ev p s = exchangeDone p ⟨b0, b1, b2, b3⟩ (s.setLine s.line.flushClose)) ∨
    (ev.failed = false ∧ (s.line.input ++ ev.arrived).length < 4 ∧
      linkRead ev p s = s.setLine (s.line.setInput (s.line.input ++ ev.arrived))) := by
  cases hf : ev.failed with
  | true => exact .inl ⟨rfl, by simp [linkRead, hf]⟩
  | false =>
    right
    generalize hb : s.line.input ++ ev.arrived = bs
    match bs, hb with
    | [], hb => exact .inr ⟨rfl, by simp, by simp only [linkRead, hf, hb]; rfl⟩
    | [_], hb => exact .inr ⟨rfl, by simp, by simp only [linkRead, hf, hb]; rfl⟩
    | [_, _], hb => exact .inr ⟨rfl, by simp, by simp only [linkRead, hf, hb]; rfl⟩
    | [_, _, _], hb => exact .inr ⟨rfl, by simp, by simp only [linkRead, hf, hb]; rfl⟩
    | b0 :: b1 :: b2 :: b3 :: rest, hb =>
      exact .inl ⟨rfl, b0, b1, b2, b3, rest, rfl, by simp only [linkRead, hf, hb]; rfl⟩

/-- A scan turn fails, takes a chunk, goes on waiting, or ends an attempt that brought no chunk. -/
theorem initScan_cases (ev : LinkEvent) (k : Nat) (s : State) :
    (ev.failed = true ∧ initScan ev k s = s.transportFailure []) ∨
    (ev.failed = false ∧ ∃ b0 b1 b2 b3 rest, s.line.input ++ ev.arrived = b0 :: b1 :: b2 :: b3 :: rest ∧
      initScan ev k s = (s.setLine (s.line.setInput rest)).setPhase
        (if isSetupEcho b0 then .closing (detectedCountOf b1) else scanOn k)) ∨
    (ev.failed = false ∧ (s.line.input ++ ev.arrived).length < 4 ∧ ev.shortRead = none ∧
      initScan ev k s = s.setLine (s.line.setInput (s.line.input ++ ev.arrived))) ∨
    (ev.failed = false ∧ (s.line.input ++ ev.arrived).length < 4 ∧ ∃ n, ev.shortRead = some n ∧
      initScan ev k s = (s.setLine (s.line.setInput ((s.line.input ++ ev.arrived).drop n))).setPhase (scanOn k)) := by
  cases hf : ev.failed with
  | true => exact .inl ⟨rfl, by simp [initScan, hf]⟩
  | false =>
    right
    generalize hb : s.line.input ++ ev.arrived = bs
    cases hr : ev.shortRead with
    | none =>
      match bs, hb with
      | [], hb => exact .inr (.inl ⟨rfl, by simp, rfl, by simp only [initScan, hf, hb, hr]; rfl⟩)
      | [_], hb => exact .inr (.inl ⟨rfl, by simp, rfl, by simp only [initScan, hf, hb, hr]; rfl⟩)
      | [_, _], hb => exact .inr (.inl ⟨rfl, by simp, rfl, by simp only [initScan, hf, hb, hr]; rfl⟩)
      | [_, _, _], hb => exact .inr (.inl ⟨rfl, by simp, rfl, by simp only [initScan, hf, hb, hr]; rfl⟩)
      | b0 :: b1 :: b2 :: b3 :: rest, hb =>
        exact .inl ⟨rfl, b0, b1, b2, b3, rest, rfl, by simp only [initScan, hf, hb]; rfl⟩
    | some n =>
      match bs, hb with
      | [], hb => exact .inr (.inr ⟨rfl, by simp, n, rfl, by simp only [initScan, hf, hb, hr]; rfl⟩)
      | [_], hb => exact .inr (.inr ⟨rfl, by simp, n, rfl, by simp only [initScan, hf, hb, hr]; rfl⟩)
      | [_, _], hb => exact .inr (.inr ⟨rfl, by simp, n, rfl, by simp only [initScan, hf, hb, hr]; rfl⟩)
      | [_, _, _], hb => exact .inr (.inr ⟨rfl, by simp, n, rfl, by simp only [initScan, hf, hb, hr]; rfl⟩)
      | b0 :: b1 :: b2 :: b3 :: rest, hb =>
        exact .inl ⟨rfl, b0, b1, b2, b3, rest, rfl, by simp only [initScan, hf, hb]; rfl⟩

theorem turns_nil (s : State) : turns [] s = s := rfl

theorem turns_cons {s : State} {a : Activity} (ev : LinkEvent) (evs : List LinkEvent) (h : s.active = some a) :
    turns (ev :: evs) s = turns evs (advanceWith ev a s.nextDraw) := by
  simp [turns, h]

theorem turns_append (xs ys : List LinkEvent) (s : State) : turns (xs ++ ys) s = turns ys (turns xs s) := by
  induction xs generalizing s with
  | nil => rfl
  | cons x xs ih =>
    cases hs : s.active with
    | none => cases ys <;> simp [turns, hs]
    | some a => simp [turns, hs, ih]

theorem turns_over {s : State} (evs : List LinkEvent) (h : s.active = none) : turns evs s = s := by
  cases evs <;> simp [turns, h]

end Sys2Proof.Machine
end

