-- ==== Sys2Proof/Laws/Scan.lean ====
section
/-!
SUPPORT. What one more turn adds to scanOver, and where an attempt without an echo leaves the scan of INIT.
-/

namespace Sys2Proof.Machine

theorem fewer_than_four_or_chunk (bs : List Byte) : bs.length < 4 ∨ ∃ b0 b1 b2 b3 rest, bs = b0 :: b1 :: b2 :: b3 :: rest := by
  match bs with
  | [] | [_] | [_, _] | [_, _, _] => left; simp
  | b0 :: b1 :: b2 :: b3 :: rest => exact .inr ⟨b0, b1, b2, b3, rest, rfl⟩

/-- A turn that takes a chunk. -/
theorem scanOver_chunk {ev : LinkEvent} {evs : List LinkEvent} {bs rest : List Byte} {b0 b1 b2 b3 : Byte} (hf : ev.failed = false)
    (h : bs ++ ev.arrived = b0 :: b1 :: b2 :: b3 :: rest) :
    scanOver (ev :: evs) bs = if b0 = 1 then none else (scanOver evs rest).map fun r => (r.1 + 1, r.2) := by
  simp [scanOver, hf, h]

/-- A turn with fewer than 4 bytes: it waits, or is an attempt that is over. -/
theorem scanOver_short {ev : LinkEvent} {evs : List LinkEvent} {bs : List Byte} (hf : ev.failed = false)
    (h : (bs ++ ev.arrived).length < 4) :
    scanOver (ev :: evs) bs =
      match ev.shortRead with
      | some n => (scanOver evs ((bs ++ ev.arrived).drop n)).map fun r => (r.1 + 1, r.2)
      | none => scanOver evs (bs ++ ev.arrived) := by
  generalize hb : bs ++ ev.arrived = buf at h
  match buf, h with
  | [], _ | [_], _ | [_, _], _ | [_, _, _], _ => cases hs : ev.shortRead <;> simp [scanOver, hf, hb, hs]

theorem scanOn_before_last {k : Nat} (h : k + 1 < 256) : scanOn k = .scan (k + 1) := by
  simp [scanOn, Config.chunkAttempts]; omega

theorem scanOn_last : scanOn 255 = .closing (-1) := rfl

end Sys2Proof.Machine
end

