-- ==== Sys2Proof/Tests/Slice0.lean ====
section
/-!
SUPPORT. The model's own tests. Expected values are those of 95_test_vectors.md (E1 to E13, V1 to V12, P1 to P5) or words written out from the tables of
30_encoding.md; no value comes from the model. The witnesses at the end meet the hypotheses of the statements.
-/

namespace Sys2Proof.Tests

open Sys2Proof Sys2Proof.Machine

/-! ### Helpers -/

/-- The next state, if there is one. -/
def after (o : Host.Outcome State Fault Refusal) : Option State :=
  match o with
  | .next t => some t
  | _ => none

/-- What is handed back last. -/
def lastHanded (o : Host.Outcome State Fault Refusal) : Option Handed := (after o).bind fun t => t.handed.getLast?

/-- `REQ` afterwards. -/
def reqAfter (o : Host.Outcome State Fault Refusal) : Option FrameReg := (after o).map State.req

/-- `RSP` afterwards. -/
def rspAfter (o : Host.Outcome State Fault Refusal) : Option FrameReg := (after o).map State.rsp

def holdingReq (f : Frame) : State := { State.reset with req := .holding f }

def holdingRsp (f : Frame) : State := { State.reset with rsp := .holding f }

def issued (c : Call) : State := { State.reset with pending := [c] }

def doing (a : Activity) : State := { State.reset with active := some a }

/-- A turn in which nothing comes. -/
def quiet : LinkEvent := ⟨false, 0, [], none⟩

/-- A turn in which bytes come. -/
def brings (bs : List Byte) : LinkEvent := ⟨false, 0, bs, none⟩

/-- A turn whose transport operation fails after `n` bytes. -/
def broken (n : Nat) : LinkEvent := ⟨true, n, [], none⟩

/-- E3's ports: 0, 4 and 5. -/
def ports49 : Ports := ⟨true, false, false, false, true, true, false, false⟩

/-! ### WellFormed and the type's own checks -/

theorem test_getport_with_data_is_ill_formed : (Instr.getport 1 5).wellFormed = false := by decide

theorem test_getport_without_data_is_well_formed : (Instr.getport 1 0).wellFormed = true := by decide

/-! ### Decoding, words written out from the encodings -/

/-- The nine request rows: byte 0 in bits 31..24 (R9, R55). -/
theorem test_decode_requests :
    decodeTableWord 32 0x00010001 = some (.nop 1 0) ∧ decodeTableWord 32 0x01023132 = some (.setup 2 0x31) ∧
    decodeTableWord 32 0x02FF00FD = some (.getport 255 0) ∧ decodeTableWord 32 0x03023130 = some (.setport 2 0x31) ∧
    decodeTableWord 32 0x04023137 = some (.getoption 2 0x31) ∧ decodeTableWord 32 0x05023136 = some (.setoption 2 0x31) ∧
    decodeTableWord 32 0x06010205 = some (.setsingle 1 2) ∧ decodeTableWord 32 0x07010107 = some (.delsingle 1 1) ∧
    decodeTableWord 32 0x08013039 = some (.toggle 1 0x30) := by decide

/-- The nine response rows (R9, R56). -/
theorem test_decode_responses :
    decodeTableWord 32 0xFF0000FF = some (.rNop 0 0 255) ∧ decodeTableWord 32 0xFE0101FE = some (.rSetup 1 1 254) ∧
    decodeTableWord 32 0xFD014177 = some (.rGetport 1 65 119) ∧ decodeTableWord 32 0xFC0131CC = some (.rSetport 1 49 204) ∧
    decodeTableWord 32 0xFB017A80 = some (.rGetoption 1 122 128) ∧ decodeTableWord 32 0xFA0203FB = some (.rSetoption 2 3 251) ∧
    decodeTableWord 32 0xF90133CB = some (.rSetsingle 1 51 203) ∧ decodeTableWord 32 0xF80132CB = some (.rDelsingle 1 50 203) ∧
    decodeTableWord 32 0xF70102F4 = some (.rToggle 1 2 244) := by decide

/-- The eight operation rows: 4-bit selects 0b0000 to 0b0111, operand ports 0 (R70). -/
theorem test_decode_operations :
    decodeTableWord 8 0b0000 = some (.rsFromByte 0) ∧
    decodeTableWord 8 0b0001 = some (.rsToByte ⟨false, false, false, false, false, false, false, false⟩) ∧
    decodeTableWord 8 0b0010 = some (.rsMake ⟨false, false, false, false, false, false, false, false⟩ 0) ∧
    decodeTableWord 8 0b0011 = some (.rsOnehot 0 0) ∧ decodeTableWord 8 0b0100 = some (.reqEncode 0 0 0) ∧
    decodeTableWord 8 0b0101 = some (.rspDecode ⟨0, 0, 0, 0⟩) ∧ decodeTableWord 8 0b0110 = some .rspClass ∧
    decodeTableWord 8 0b0111 = some .rspState := by decide

/-- R58, R70: the neighbours on both sides of the defined values. -/
theorem test_decode_refuses :
    decodeTableWord 32 0x09010008 = none ∧ decodeTableWord 32 0xF60102F5 = none ∧ decodeTableWord 8 0b1000 = none ∧
    decodeTableWord 8 0b1111 = none := by decide

/-- R9 and R51: byte `n` of the encoded frame is byte `n` of the wire. -/
theorem test_encode_setport : encode (.setport 1 0x31) = .frame ⟨0x03, 0x01, 0x31, 0x33⟩ := by decide

/-- A word placed at reset runs in the very next step. -/
theorem test_step_runs_placed_word :
    reqAfter (step (State.reset.withFetchWord 32 0x03013133)) = some (.holding ⟨0x03, 0x01, 0x31, 0x33⟩) := by decide

/-! ### The relay-state codec -/

/-- E2. -/
theorem test_frombyte_164 :
    lastHanded (exec (.rsFromByte 164) State.reset) = some (.ports ⟨false, false, true, false, false, true, false, true⟩) := by decide

/-- V1, corner cases 1 and 128. -/
theorem test_frombyte_ends :
    fromByte 1 = ⟨true, false, false, false, false, false, false, false⟩ ∧
    fromByte 128 = ⟨false, false, false, false, false, false, false, true⟩ := by decide

/-- E3. -/
theorem test_tobyte_49 : lastHanded (exec (.rsToByte ports49) State.reset) = some (.byte 49) := by decide

/-- V1: only relay 8. -/
theorem test_tobyte_relay8 : toByte ⟨false, false, false, false, false, false, false, true⟩ = 0x80 := by decide

/-- V2, rows 1 and 4. -/
theorem test_make :
    lastHanded (exec (.rsMake ports49 1) State.reset) = some (.relayState ⟨ports49, 1⟩) ∧
    lastHanded (exec (.rsMake ports49 0) State.reset) = some (.error (.configuration 0)) := by decide

/-- V2, rows 5 and 8. -/
theorem test_onehot :
    lastHanded (exec (.rsOnehot 2 3) State.reset) =
      some (.relayState ⟨⟨false, false, false, true, false, false, false, false⟩, 2⟩) ∧
    lastHanded (exec (.rsOnehot 1 8) State.reset) = some (.error (.configuration 8)) := by decide

/-- V2, rows 8 and 11: which operand is named when only one is wrong. -/
theorem test_onehot_names_the_wrong_operand :
    onehotOffence 1 255 = some 255 ∧ onehotOffence 0 3 = some 0 ∧ onehotOffence 255 7 = none := by decide

/-- V1, the sample of R88: 49 | 18 = 51, 49 & 18 = 16, 49 ^ 18 = 35, ~49 = 206. -/
theorem test_portwise_sample :
    toByte (portwise or ports49 (fromByte 18)) = 51 ∧ toByte (portwise and ports49 (fromByte 18)) = 16 ∧
    toByte (portwise xor ports49 (fromByte 18)) = 35 ∧ toByte (portNot ports49) = 206 := by decide

/-! ### The frame codec -/

/-- V3, rows 1, 5, 6 and 9. -/
theorem test_chk : chk 0x03 0x01 0x31 = 0x33 ∧ chk 2 2 0 = 0 ∧ chk 0x08 0xFF 0xFF = 0x08 ∧ chk 0x08 0x80 0x88 = 0 := by decide

/-- E4, V4 row 1. -/
theorem test_reqEncode :
    reqAfter (exec (.reqEncode 3 1 49) State.reset) = some (.holding ⟨0x03, 0x01, 0x31, 0x33⟩) ∧
    lastHanded (exec (.reqEncode 8 0 1) State.reset) = some (.request ⟨0x08, 0x00, 0x01, 0x09⟩) := by decide

/-- V4 row 6, V10 row 4: command 9 clears `REQ_V`. -/
theorem test_reqEncode_refuses_9 :
    reqAfter (exec (.reqEncode 9 1 0) (holdingReq ⟨0x03, 0x01, 0x31, 0x33⟩)) = some .empty ∧
    lastHanded (exec (.reqEncode 9 1 0) (holdingReq ⟨0x03, 0x01, 0x31, 0x33⟩)) = some (.error (.configuration 9)) := by decide

/-- V5 rows 2 and 3: a wrong checksum and the lowest code are accepted. -/
theorem test_rspDecode :
    rspAfter (exec (.rspDecode ⟨0xFD, 0x01, 0x41, 0x00⟩) State.reset) = some (.holding ⟨0xFD, 0x01, 0x41, 0x00⟩) ∧
    lastHanded (exec (.rspDecode ⟨0xF7, 0x01, 0x02, 0xF4⟩) State.reset) = some (.response ⟨0xF7, 0x01, 0x02, 0xF4⟩) := by decide

/-- V5 row 4. -/
theorem test_rspDecode_refuses_F6 :
    rspAfter (exec (.rspDecode ⟨0xF6, 0x01, 0x02, 0xF5⟩) (holdingRsp ⟨0xF7, 0x01, 0x02, 0xF4⟩)) = some .empty ∧
    lastHanded (exec (.rspDecode ⟨0xF6, 0x01, 0x02, 0xF5⟩) State.reset) = some (.error (.decode 246)) := by decide

/-- V6, first and last row; from reset NoValue(RSP). -/
theorem test_rspClass :
    lastHanded (exec .rspClass (holdingRsp ⟨247, 1, 2, 244⟩)) = some (.command 8) ∧
    lastHanded (exec .rspClass (holdingRsp ⟨255, 0, 0, 255⟩)) = some (.command 0) ∧
    lastHanded (exec .rspClass State.reset) = some (.error (.noValue .rsp)) := by decide

/-- V7 rows 2 and 5: the response's own address, address 0 included. -/
theorem test_rspState :
    lastHanded (exec .rspState (holdingRsp ⟨0xFD, 0x02, 0x41, 0x00⟩)) =
      some (.relayState ⟨⟨true, false, false, false, false, false, true, false⟩, 2⟩) ∧
    lastHanded (exec .rspState (holdingRsp ⟨0xFD, 0x00, 0xFF, 0x02⟩)) =
      some (.relayState ⟨⟨true, true, true, true, true, true, true, true⟩, 0⟩) := by decide

/-! ### The wire commands and the response codes -/

/-- V8, one row of each command. -/
theorem test_request_frames :
    reqAfter (exec (.nop 2 0x31) State.reset) = some (.holding ⟨0x00, 0x02, 0x31, 0x33⟩) ∧
    reqAfter (exec (.setup 2 0x31) State.reset) = some (.holding ⟨0x01, 0x02, 0x31, 0x32⟩) ∧
    reqAfter (exec (.getport 2 0) State.reset) = some (.holding ⟨0x02, 0x02, 0x00, 0x00⟩) ∧
    reqAfter (exec (.setport 2 0x31) State.reset) = some (.holding ⟨0x03, 0x02, 0x31, 0x30⟩) ∧
    reqAfter (exec (.getoption 2 0x31) State.reset) = some (.holding ⟨0x04, 0x02, 0x31, 0x37⟩) ∧
    reqAfter (exec (.setoption 2 0x31) State.reset) = some (.holding ⟨0x05, 0x02, 0x31, 0x36⟩) ∧
    reqAfter (exec (.setsingle 2 0x31) State.reset) = some (.holding ⟨0x06, 0x02, 0x31, 0x35⟩) ∧
    reqAfter (exec (.delsingle 2 0x31) State.reset) = some (.holding ⟨0x07, 0x02, 0x31, 0x34⟩) ∧
    reqAfter (exec (.toggle 2 0x31) State.reset) = some (.holding ⟨0x08, 0x02, 0x31, 0x3B⟩) := by decide

/-- R130 to R138: each response frame is stored as received, here with the checksum 0 of none of them. -/
theorem test_response_frames :
    rspAfter (exec (.rNop 1 2 0) State.reset) = some (.holding ⟨255, 1, 2, 0⟩) ∧
    rspAfter (exec (.rSetup 1 2 0) State.reset) = some (.holding ⟨254, 1, 2, 0⟩) ∧
    rspAfter (exec (.rGetport 1 2 0) State.reset) = some (.holding ⟨253, 1, 2, 0⟩) ∧
    rspAfter (exec (.rSetport 1 2 0) State.reset) = some (.holding ⟨252, 1, 2, 0⟩) ∧
    rspAfter (exec (.rGetoption 1 2 0) State.reset) = some (.holding ⟨251, 1, 2, 0⟩) ∧
    rspAfter (exec (.rSetoption 1 2 0) State.reset) = some (.holding ⟨250, 1, 2, 0⟩) ∧
    rspAfter (exec (.rSetsingle 1 2 0) State.reset) = some (.holding ⟨249, 1, 2, 0⟩) ∧
    rspAfter (exec (.rDelsingle 1 2 0) State.reset) = some (.holding ⟨248, 1, 2, 0⟩) ∧
    rspAfter (exec (.rToggle 1 2 0) State.reset) = some (.holding ⟨247, 1, 2, 0⟩) := by decide

/-- R166: the outcome codes. -/
theorem test_outcome_codes :
    (Handed.byte 0).code = 0 ∧ (Handed.error (.configuration 0)).code = 1 ∧ (Handed.error (.decode 0)).code = 2 ∧
    (Handed.error (.noValue .req)).code = 3 ∧ (Handed.error .transport).code = 4 := by decide

/-! ### The pseudo-instructions (V9) -/

/-- V9 row 3, E9. -/
theorem test_cmd_getport :
    (turns [quiet, quiet, quiet, brings [0xFD, 0x01, 0x41, 0x77], quiet, quiet] (doing (.encode 2 1 0 true))).handed =
      [.composite ⟨253, 1, 65, 119⟩ (some ⟨⟨true, false, false, false, false, false, true, false⟩, 1⟩)] ∧
    (turns [quiet, quiet, quiet, brings [0xFD, 0x01, 0x41, 0x77], quiet, quiet] (doing (.encode 2 1 0 true))).line =
      ⟨false, [], [0x02, 0x01, 0x00, 0x03]⟩ := by decide

/-- V9 row 1: no state from SetPort. -/
theorem test_cmd_setport :
    (turns [quiet, quiet, quiet, brings [0xFC, 0x01, 0x31, 0xCC], quiet] (doing (.encode 3 1 49 false))).handed =
      [.composite ⟨252, 1, 49, 204⟩ none] := by decide

/-- V9 row 6: the request echoed back, DecodeError(2) after the request was sent. -/
theorem test_cmd_getport_echo :
    (turns [quiet, quiet, quiet, brings [0x02, 0x01, 0x00, 0x03], quiet] (doing (.encode 2 1 0 true))).handed = [.error (.decode 2)] ∧
    (turns [quiet, quiet, quiet, brings [0x02, 0x01, 0x00, 0x03], quiet] (doing (.encode 2 1 0 true))).line.sent = [2, 1, 0, 3] := by decide

/-- V9 row 7: a transport failure. -/
theorem test_cmd_transport_error :
    (turns [quiet, quiet, broken 2] (doing (.encode 2 1 0 true))).handed = [.error .transport] ∧
    (turns [quiet, quiet, broken 2] (doing (.encode 2 1 0 true))).req = .holding ⟨2, 1, 0, 3⟩ := by decide

/-- V9 rows 9 and 15: nothing sent. -/
theorem test_cmd_refused :
    lastHanded (step (issued (.cmdGetPort 0))) = some (.error (.configuration 0)) ∧
    lastHanded (step (issued (.cmdToggle1 1 8))) = some (.error (.configuration 8)) ∧
    (after (step (issued (.cmdToggle1 1 8)))).map State.line = some State.reset.line := by decide

/-- V9 rows 10 to 14: what each pseudo-instruction encodes. -/
theorem test_cmd_requests :
    (after (step (issued (.cmdSetPort ⟨ports49, 1⟩)))).map State.active = some (some (.encode 3 1 0x31 false)) ∧
    (after (step (issued (.cmdSetSingle ⟨fromByte 2, 1⟩)))).map State.active = some (some (.encode 6 1 2 true)) ∧
    (after (step (issued (.cmdDelSingle ⟨fromByte 1, 1⟩)))).map State.active = some (some (.encode 7 1 1 true)) ∧
    (after (step (issued (.cmdToggle ⟨fromByte 0x30, 1⟩)))).map State.active = some (some (.encode 8 1 0x30 true)) ∧
    (after (step (issued (.cmdToggle1 2 3)))).map State.active = some (some (.encode 8 2 8 true)) := by decide

/-- V10 row 3: the link asked to send from reset. -/
theorem test_link_refuses_empty_request : lastHanded (step (issued .linkExchange)) = some (.error (.noValue .req)) := by decide

/-- R149, R41: the first 4 bytes are taken, the fifth is dropped, the channel closed. -/
theorem test_link_read_drops_the_rest :
    (linkRead (brings [5]) .raw { doing (.readFrame .raw) with line := ⟨true, [1, 2, 3, 4], []⟩ }).handed = [.linkBytes ⟨1, 2, 3, 4⟩] ∧
    (linkRead (brings [5]) .raw { doing (.readFrame .raw) with line := ⟨true, [1, 2, 3, 4], []⟩ }).line = ⟨false, [], []⟩ := by decide

/-- Table T216: another host's read of RSP runs between two turns, and the call then ends as it would have. -/
theorem test_read_in_anothers_section :
    lastHanded (duringCall true quiet (.readFrame .raw) { holdingRsp ⟨0xFD, 0x01, 0x41, 0x00⟩ with
      active := some (.readFrame .raw), pending := [.word (.op 6 0 0 0 0)] }) = some (.command 2) := by decide

/-- R140, V9 row 9: another host's CMD.GETPORT 0 is refused at once. -/
theorem test_refused_command_in_anothers_section :
    lastHanded (duringCall true quiet (.readFrame .raw) { doing (.readFrame .raw) with pending := [.cmdGetPort 0] }) =
      some (.error (.configuration 0)) := by decide

/-- R48: a writer that keeps its duty waits. -/
theorem test_writer_waits_for_the_section :
    (after (duringCall true quiet (.readFrame .raw) { doing (.readFrame .raw) with pending := [.word (.op 4 3 1 49 0)] })).map State.pending =
      some [.word (.op 4 3 1 49 0)] := by decide

/-! ### The handshake (V12, P4) -/

/-- V12: 0, 1, 2, 128, 255. -/
theorem test_detected_count :
    detectedCountOf 0 = 255 ∧ detectedCountOf 1 = 0 ∧ detectedCountOf 2 = 1 ∧ detectedCountOf 128 = 127 ∧ detectedCountOf 255 = 254 := by decide

/-- P4: the stale bytes AA BB are discarded by step 1. -/
theorem test_init_discards_stale_input :
    (initOpen (brings [0xCC]) { doing (.handshake .opening) with line := ⟨false, [0xAA, 0xBB], []⟩ }).line.input = [] := by decide

/-- R189: 4 buffered bytes stop the loop early, 3 do not, and the fourth send is the last. -/
theorem test_init_setup_stops :
    (initSetup (brings [1, 2, 3, 4]) 0 State.reset).active = some (.handshake .chainWait) ∧
    (initSetup (brings [1, 2, 3]) 0 State.reset).active = some (.handshake (.setup 1)) ∧
    (initSetup quiet 3 State.reset).active = some (.handshake .chainWait) := by decide

/-- V12, the second scan sample: the second chunk qualifies, count 1. -/
theorem test_init_scan :
    (turns [brings [0xFF, 0, 0, 0, 0x01, 0x02, 0xAA, 0xBB], quiet, quiet] (doing (.handshake (.scan 0)))).handed = [.count 1] ∧
    (turns [brings [0xFF, 0, 0, 0, 0x01, 0x02, 0xAA, 0xBB], quiet, quiet] (doing (.handshake (.scan 0)))).initialized = true := by decide

/-- V12, the third scan sample: `01 04` one position late does not qualify. -/
theorem test_init_scan_misaligned :
    (turns [brings [0x00, 0x01, 0x04, 0x00, 0, 0, 0, 0], quiet] (doing (.handshake (.scan 0)))).active =
      some (.handshake (.scan 2)) := by decide

/-- V12: a count of 0 does not mark the controller initialized. -/
theorem test_init_no_board :
    (initClose 0 State.reset).initialized = false ∧ (initClose 0 State.reset).detectedCount = 0 := by decide

/-! ### The reference board (P2, ASSUMED; nothing else rests on it) -/

/-- P2: 0x31 | 0x02 = 0x33; 0x33 & ~0x01 = 0x32; 0x32 ^ 0x30 = 0x02; 0x02 ^ 0x80 = 0x82, and the frames that answer. -/
theorem test_reference_board :
    referenceBoard 1 0x31 0 ⟨0x06, 0x01, 0x02, 0x05⟩ = some (⟨0xF9, 0x01, 0x33, 0xCB⟩, 0x33) ∧
    referenceBoard 1 0x33 0 ⟨0x07, 0x01, 0x01, 0x07⟩ = some (⟨0xF8, 0x01, 0x32, 0xCB⟩, 0x32) ∧
    referenceBoard 1 0x32 0 ⟨0x08, 0x01, 0x30, 0x39⟩ = some (⟨0xF7, 0x01, 0x02, 0xF4⟩, 0x02) ∧
    referenceBoard 1 0x02 0 ⟨0x08, 0x01, 0x80, 0x89⟩ = some (⟨0xF7, 0x01, 0x82, 0x74⟩, 0x82) ∧
    referenceBoard 1 0x82 0 ⟨0x02, 0x01, 0x00, 0x03⟩ = some (⟨0xFD, 0x01, 0x82, 0x7E⟩, 0x82) := by decide

/-! ### Witnesses: concrete states and operands that meet the hypotheses of each statement -/

def idleWord (w : IssueWord) : State := issued (.word w)

theorem witness_DecodeEncodeAgree : decode (.frame ⟨0x08, 1, 1, 0⟩) = .ok (.toggle 1 1) ∧ decode (.op 7 1 2 3 4) = .ok .rspState := by decide

theorem witness_SelectCodesChooseOperations :
    (8 ≤ (8#8).toNat ∧ (8#8).toNat ≤ 15 ∧ (idleWord (.op 8 0 0 0 0)).active = none ∧
      (idleWord (.op 8 0 0 0 0)).pending = .word (.op 8 0 0 0 0) :: []) ∧
    (8 ≤ (15#8).toNat ∧ (15#8).toNat ≤ 15 ∧ (idleWord (.op 15 1 2 3 4)).active = none ∧
      (idleWord (.op 15 1 2 3 4)).pending = .word (.op 15 1 2 3 4) :: []) := by decide

theorem witness_StepRunsDecodedInstruction :
    (idleWord (.op 6 0 0 0 0)).active = none ∧ (idleWord (.op 6 0 0 0 0)).pending = .word (.op 6 0 0 0 0) :: [] ∧
    (issued (.unguarded (.op 6 0 0 0 0))).pending = .unguarded (.op 6 0 0 0 0) :: [] ∧
    decode (.op 6 0 0 0 0) = .ok .rspClass ∧ decodeTableWord 32 0xF70102F4 = some (.rToggle 1 2 244) := by decide

theorem witness_ToByteCommutesWithPortwiseLogic :
    (∀ i : Fin 8, portAt ⟨true, false, false, false, false, false, false, false⟩ i = decide (i = 0)) ∧
    (∀ i : Fin 8, portAt ⟨false, false, false, false, false, false, false, true⟩ i = decide (i = 7)) := by decide

theorem witness_RsMakeOutcome : (1#8 ≠ 0) ∧ (255#8 ≠ 0) ∧ (0#8 = 0) := by decide

theorem witness_RsOnehotOutcome :
    (1#8 ≠ 0 ∧ (7#8).toNat ≤ 7) ∧ (255#8 ≠ 0 ∧ (0#8).toNat ≤ 7) ∧ (0#8 = 0 ∧ (3#8).toNat ≤ 7) ∧ (1#8 ≠ 0 ∧ 7 < (8#8).toNat) ∧
    (0#8 = 0 ∧ 7 < (9#8).toNat) := by decide

theorem witness_ChecksumLaws : 0x33#8 = chk 0x03 0x01 0x31 ∧ chk 0x08 0x80 0x88 = 0 := by decide

theorem witness_ResponseCodeLaw : (0#8).toNat ≤ 8 ∧ (8#8).toNat ≤ 8 ∧ 247 ≤ (247#8).toNat ∧ 247 ≤ (255#8).toNat := by decide

theorem witness_ReqEncodeOutcome : (8#8).toNat ≤ 8 ∧ 8 < (9#8).toNat := by decide

theorem witness_RspDecodeOutcome : 247 ≤ (Frame.mk 247 1 2 244).code.toNat ∧ (Frame.mk 246 1 2 245).code.toNat < 247 := by decide

theorem witness_RspClassOutcome :
    State.reset.rspV = false ∧
    ((holdingRsp ⟨247, 1, 2, 244⟩).rsp = .holding ⟨247, 1, 2, 244⟩ ∧ 247 ≤ (Frame.mk 247 1 2 244).code.toNat) := by decide

theorem witness_RspStateOutcome : State.reset.rspV = false ∧ (holdingRsp ⟨253, 0, 255, 2⟩).rsp = .holding ⟨253, 0, 255, 2⟩ := by decide

theorem witness_RequestFedToDecoderIsDecodeError :
    ((holdingReq ⟨8, 1, 1, 8⟩).reqGood ∧ (holdingReq ⟨8, 1, 1, 8⟩).req = .holding ⟨8, 1, 1, 8⟩) ∧
    (Instr.toggle 1 1).writesReq = true ∧
    exec (.toggle 1 1) State.reset =
      .next { State.reset with req := .holding ⟨8, 1, 1, 8⟩, handed := [.request ⟨8, 1, 1, 8⟩] } :=
  ⟨⟨by intro f h; cases h; exact ⟨by decide, by decide⟩, rfl⟩, rfl, rfl⟩

theorem witness_FailingOperationClearsOnlyItsValidBit :
    exec (.reqEncode 9 1 0) State.reset = .next { State.reset with handed := [.error (.configuration 9)] } ∧
    exec (.rspDecode ⟨246, 1, 2, 245⟩) State.reset = .next { State.reset with handed := [.error (.decode 246)] } ∧
    exec .rspState State.reset = .next { State.reset with handed := [.error (.noValue .rsp)] } := ⟨rfl, rfl, rfl⟩

theorem witness_InstructionsIgnoreTheEnvironment :
    exec (.rsToByte ports49) State.reset = .next { State.reset with handed := [.byte 49] } := rfl

/-- A state in which a pseudo-instruction is in progress and the invariant holds. -/
def midCommand : State := doing (.encode 2 1 0 true)

theorem midCommand_inv : midCommand.Inv where
  req := by intro f h; cases h
  rsp := by intro f h; cases h
  count := by decide
  mark := by decide
  channel := by decide
  phase := by intro a h; cases h; exact ⟨by decide, by decide⟩
  duty := by intro c h; cases h
  owns := by intro a h; cases h; trivial

/-- A state in which a response has been decoded and its state is to be handed back. -/
def midState : State := { doing (.decodeState ⟨253, 1, 65, 119⟩) with rsp := .holding ⟨253, 1, 65, 119⟩ }

theorem midState_inv : midState.Inv where
  req := by intro f h; cases h
  rsp := by intro f h; cases h; decide
  count := by decide
  mark := by decide
  channel := by decide
  phase := by intro a h; cases h; trivial
  duty := by intro c h; cases h
  owns := by intro a h; cases h; rfl

/-- A call in progress with another host's read, an unguarded pure operation and a writer issued behind it. -/
def midShared : State := { midState with pending := [.word (.op 7 0 0 0 0), .unguarded (.op 0 5 0 0 0), .word (.op 4 9 0 0 0)] }

theorem midShared_inv : midShared.Inv where
  req := by intro f h; cases h
  rsp := by intro f h; cases h; decide
  count := by decide
  mark := by decide
  channel := by decide
  phase := by intro a h; cases h; trivial
  duty := by
    intro c h
    simp only [midShared, List.mem_cons, List.not_mem_nil, or_false] at h
    rcases h with rfl | rfl | rfl
    · trivial
    · intro i hi; cases hi; exact ⟨rfl, rfl⟩
    · trivial
  owns := by intro a h; cases h; rfl

/-- A call in progress that another host's unguarded decoder disturbs. -/
def midBroken : State := { midState with pending := [.unguarded (.op 5 247 2 8 0)] }

theorem midBroken_safe : midBroken.Safe := { midState_inv.toSafe with }

theorem midShared_steps : ∃ t, step midShared = .next t := by
  rw [step_during (s := midShared) rfl]
  cases Config.othersFirst midShared.draws <;> exact ⟨_, rfl⟩

theorem midBroken_steps : ∃ t, step midBroken = .next t := by
  rw [step_during (s := midBroken) rfl]
  cases Config.othersFirst midBroken.draws <;> exact ⟨_, rfl⟩

theorem witness_StepKeepsTheInvariant : (midCommand.Inv ∧ ∃ t, step midCommand = .next t) ∧ midShared.Inv ∧ ∃ t, step midShared = .next t :=
  ⟨⟨midCommand_inv, _, rfl⟩, midShared_inv, midShared_steps⟩

theorem witness_StepKeepsTheMachineSafe : midBroken.Safe ∧ ∃ t, step midBroken = .next t := ⟨midBroken_safe, midBroken_steps⟩

theorem witness_RequestRegisterStaysGood :
    (holdingReq ⟨3, 1, 0x31, 0x33⟩).reqGood ∧ ∃ t, step (holdingReq ⟨3, 1, 0x31, 0x33⟩) = .next t :=
  ⟨by intro f h; cases h; exact ⟨by decide, by decide⟩, _, rfl⟩

theorem witness_ResponseRegisterStaysGood : midState.rspGood ∧ ∃ t, step midState = .next t := ⟨midState_inv.rsp, _, rfl⟩

theorem witness_FrameRegistersHaveNoOtherWriter :
    (reqAfter (step midCommand) = some (.holding ⟨2, 1, 0, 3⟩) ∧ midCommand.req = .empty) ∧
    (rspAfter (step (idleWord (.frame ⟨253, 1, 65, 0⟩))) = some (.holding ⟨253, 1, 65, 0⟩) ∧
      (idleWord (.frame ⟨253, 1, 65, 0⟩)).rsp = .empty) ∧
    reqAfter (step (issued (.unguarded (.op 4 3 1 49 0)))) = some (.holding ⟨3, 1, 49, 51⟩) := by decide

theorem witness_StepIsATurnOfTheCallInProgress :
    (midCommand.active = some (.encode 2 1 0 true) ∧ midCommand.pending = []) ∧
    ({ midCommand with pending := [.init] }.active = some (.encode 2 1 0 true) ∧ { midCommand with pending := [.init] }.pending = .init :: []) ∧
    { midCommand with pending := [.linkExchange] }.pending = .linkExchange :: [] := by decide

/-- T216: a pure operation and a read of RSP in another's section, a writer that waits, and one that does not. -/
theorem witness_OthersOperationsRunBetweenTurns :
    (decode (.op 1 0x31 0 0 0) = .ok (.rsToByte ports49) ∧ (Instr.rsToByte ports49).writesReq = false ∧ (Instr.rsToByte ports49).writesRsp = false) ∧
    (decode (.op 7 0 0 0 0) = .ok .rspState ∧ Instr.rspState.writesReq = false ∧ Instr.rspState.writesRsp = false ∧
      midShared.pending = .word (.op 7 0 0 0 0) :: [.unguarded (.op 0 5 0 0 0), .word (.op 4 9 0 0 0)]) ∧
    (decode (.op 4 2 1 0 0) = .ok (.reqEncode 2 1 0) ∧ (Instr.reqEncode 2 1 0).writesReq = true) ∧
    (midBroken.pending = .unguarded (.op 5 247 2 8 0) :: [] ∧ decode (.op 5 247 2 8 0) = .ok (.rspDecode ⟨247, 2, 8, 0⟩)) := by decide

theorem witness_OthersCommandsWaitOrAreRefused :
    ((issued (.cmdGetPort 1)).pending = .cmdGetPort 1 :: [] ∧ 1#8 ≠ 0) ∧ ((issued (.cmdGetPort 0)).pending = .cmdGetPort 0 :: [] ∧ 0#8 = 0) ∧
    ((issued (.cmdToggle ⟨ports49, 255⟩)).pending = .cmdToggle ⟨ports49, 255⟩ :: [] ∧ 255#8 ≠ 0) ∧
    ((issued (.cmdToggle1 1 7)).pending = .cmdToggle1 1 7 :: [] ∧ 1#8 ≠ 0 ∧ (7#8).toNat ≤ 7) ∧
    ((issued (.cmdToggle1 1 8)).pending = .cmdToggle1 1 8 :: [] ∧ 7 < (8#8).toNat) := by decide

theorem witness_GuardedOperationsLeaveTheCallAlone :
    midShared.pending = .word (.op 7 0 0 0 0) :: [.unguarded (.op 0 5 0 0 0), .word (.op 4 9 0 0 0)] ∧
    (after (duringCall true quiet (.decodeState ⟨253, 1, 65, 119⟩) midShared)).map State.pending =
      some [.unguarded (.op 0 5 0 0 0), .word (.op 4 9 0 0 0)] := by decide

theorem witness_BrokenDutyGivesTheWrongFrame :
    (midBroken.pending = .unguarded (.op 5 247 2 8 0) :: [] ∧ decode (.op 5 247 2 8 0) = .ok (.rspDecode ⟨247, 2, 8, 0⟩) ∧ 247 ≤ (247#8).toNat) ∧
    ((issued (.unguarded (.op 4 8 1 1 0))).pending = .unguarded (.op 4 8 1 1 0) :: [] ∧
      decode (.op 4 8 1 1 0) = .ok (.reqEncode 8 1 1) ∧ (8#8).toNat ≤ 8 ∧ quiet.failed = false) := by decide

theorem witness_NoCallBeginsDuringAnother :
    (midCommand.active = some (.encode 2 1 0 true) ∧ ∃ t, step midCommand = .next t) ∧
    midShared.active = some (.decodeState ⟨253, 1, 65, 119⟩) ∧ ∃ t, step midShared = .next t :=
  ⟨⟨rfl, _, rfl⟩, rfl, midShared_steps⟩

theorem witness_OnlyUndefinedWordsStopTheMachine :
    ((idleWord (.op 8 1 2 3 4)).active = none ∧ (idleWord (.op 8 1 2 3 4)).pending = .word (.op 8 1 2 3 4) :: [] ∧ 8 ≤ (8#8).toNat) ∧
    ((idleWord (.frame ⟨9, 1, 0, 8⟩)).pending = .word (.frame ⟨9, 1, 0, 8⟩) :: [] ∧ 9 ≤ (9#8).toNat ∧ (9#8).toNat ≤ 246) ∧
    ((idleWord (.frame ⟨246, 1, 2, 245⟩)).pending = .word (.frame ⟨246, 1, 2, 245⟩) :: [] ∧ 9 ≤ (246#8).toNat ∧ (246#8).toNat ≤ 246) ∧
    (issued (.unguarded (.op 255 1 2 3 4))).pending = .unguarded (.op 255 1 2 3 4) :: [] ∧
    (issued (.unguarded (.frame ⟨9, 0, 0, 0⟩))).pending = .unguarded (.frame ⟨9, 0, 0, 0⟩) :: [] ∧
    (after (step (idleWord (.op 7 0 0 0 0)))).isSome = true ∧ (after (step (idleWord (.frame ⟨8, 1, 0, 9⟩)))).isSome = true ∧
    (after (step (idleWord (.frame ⟨247, 1, 0, 246⟩)))).isSome = true := by decide

theorem witness_NoCallIsLostOrAnsweredTwice :
    (∃ t, step midCommand = .next t) ∧ (∃ t, step midState = .next t) ∧ ∃ t, step (issued .init) = .next t :=
  ⟨⟨_, rfl⟩, ⟨_, rfl⟩, ⟨_, rfl⟩⟩

theorem witness_ResultsAreCopies : ∃ t, step (idleWord (.op 7 0 0 0 0)) = .next t := ⟨_, rfl⟩

theorem witness_RunOverIsFinal : State.reset.runOver = true := by decide

theorem witness_LinkRefusesEmptyRequest :
    (issued .linkExchange).active = none ∧ (issued .linkExchange).pending = .linkExchange :: [] ∧ (issued .linkExchange).reqV = false := by decide

theorem witness_NoCallInProgressRaisesNoValue :
    midState.Inv ∧ midState.active = some (.decodeState ⟨253, 1, 65, 119⟩) ∧ ∃ t, step midState = .next t ∧ t.pending = midState.pending :=
  ⟨midState_inv, rfl, _, rfl, rfl⟩

theorem witness_CommandsRefuseBadOperands :
    (issued (.cmdGetPort 0)).active = none ∧ (issued (.cmdSetPort ⟨ports49, 0⟩)).pending = .cmdSetPort ⟨ports49, 0⟩ :: [] ∧
    (issued (.cmdGetPort 0)).pending = .cmdGetPort 0 :: [] ∧ (issued (.cmdSetSingle ⟨ports49, 0⟩)).pending = .cmdSetSingle ⟨ports49, 0⟩ :: [] ∧
    (issued (.cmdDelSingle ⟨ports49, 0⟩)).pending = .cmdDelSingle ⟨ports49, 0⟩ :: [] ∧
    (issued (.cmdToggle ⟨ports49, 0⟩)).pending = .cmdToggle ⟨ports49, 0⟩ :: [] ∧
    ((issued (.cmdToggle1 1 8)).pending = .cmdToggle1 1 8 :: [] ∧ 7 < (8#8).toNat) ∧
    ((issued (.cmdToggle1 0 7)).pending = .cmdToggle1 0 7 :: [] ∧ 0#8 = 0 ∧ (7#8).toNat ≤ 7) ∧
    ((issued (.cmdToggle1 0 8)).pending = .cmdToggle1 0 8 :: [] ∧ 0#8 = 0 ∧ 7 < (8#8).toNat) := by decide

theorem witness_CommandsBeginWithTheirRequest :
    (issued (.cmdGetPort 1)).active = none ∧ 1#8 ≠ 0 ∧ (issued (.cmdSetPort ⟨ports49, 1⟩)).pending = .cmdSetPort ⟨ports49, 1⟩ :: [] ∧
    (issued (.cmdGetPort 1)).pending = .cmdGetPort 1 :: [] ∧ (issued (.cmdSetSingle ⟨ports49, 1⟩)).pending = .cmdSetSingle ⟨ports49, 1⟩ :: [] ∧
    (issued (.cmdDelSingle ⟨ports49, 1⟩)).pending = .cmdDelSingle ⟨ports49, 1⟩ :: [] ∧
    (issued (.cmdToggle ⟨ports49, 1⟩)).pending = .cmdToggle ⟨ports49, 1⟩ :: [] ∧
    ((issued (.cmdToggle1 1 7)).pending = .cmdToggle1 1 7 :: [] ∧ (7#8).toNat ≤ 7) := by decide

theorem witness_LinkSendsTheRequestInOrder : (holdingReq ⟨3, 1, 0x31, 0x33⟩).req = .holding ⟨3, 1, 0x31, 0x33⟩ ∧ quiet.failed = false := by decide

theorem witness_ReadWaitsForFourBytes :
    (doing (.readFrame .raw)).active = some (.readFrame .raw) ∧ (∀ ev ∈ [brings [1, 2], quiet, brings [3]], ev.failed = false) ∧
    ((doing (.readFrame .raw)).line.input ++ [brings [1, 2], quiet, brings [3]].flatMap LinkEvent.arrived).length < 4 := by decide

/-- The hypotheses that the statements about an exchange share: stale bytes, a slow answer, and more than 4 bytes. -/
theorem witness_exchange_events :
    (∀ ev ∈ quiet :: quiet :: brings [0x41, 0x77, 0x99] :: [brings [0xFD], quiet, brings [0x01]], ev.failed = false) ∧
    (quiet.arrived ++ quiet.arrived ++ [brings [0xFD], quiet, brings [0x01]].flatMap LinkEvent.arrived).length < 4 ∧
    quiet.arrived ++ quiet.arrived ++ [brings [0xFD], quiet, brings [0x01]].flatMap LinkEvent.arrived ++ (brings [0x41, 0x77, 0x99]).arrived =
      0xFD :: 0x01 :: 0x41 :: 0x77 :: [0x99] := by decide

/-- Both forms of the answer: all four bytes buffered, stale, when the channel opens and no turn of waiting; and a slow one. -/
theorem witness_CommandRunsToItsResult :
    midCommand.active = some (.encode 2 1 0 true) ∧ (2#8).toNat ≤ 8 ∧ 247 ≤ (0xFD#8).toNat ∧
    ((∀ ev ∈ brings [0xFD, 0x01, 0x41, 0x77, 0x99] :: quiet :: quiet :: [], ev.failed = false) ∧
      (([] : List LinkEvent) ≠ [] → ((brings [0xFD, 0x01, 0x41, 0x77, 0x99]).arrived ++ quiet.arrived ++ []).length < 4) ∧
      (brings [0xFD, 0x01, 0x41, 0x77, 0x99]).arrived ++ quiet.arrived ++ ([] : List LinkEvent).flatMap LinkEvent.arrived ++ quiet.arrived =
        0xFD :: 0x01 :: 0x41 :: 0x77 :: [0x99]) ∧
    ((∀ ev ∈ quiet :: brings [0xFD] :: brings [0x77] :: [brings [0x01], brings [0x41]], ev.failed = false) ∧
      ([brings [0x01], brings [0x41]] ≠ [] →
        (quiet.arrived ++ (brings [0xFD]).arrived ++ [brings [0x01], brings [0x41]].flatMap LinkEvent.arrived).length < 4) ∧
      quiet.arrived ++ (brings [0xFD]).arrived ++ [brings [0x01], brings [0x41]].flatMap LinkEvent.arrived ++ (brings [0x77]).arrived =
        0xFD :: 0x01 :: 0x41 :: 0x77 :: []) := by decide

theorem witness_CommandEndsWithDecodeError :
    midCommand.active = some (.encode 2 1 0 true) ∧ (2#8).toNat ≤ 8 ∧ (246#8).toNat < 247 ∧
    (∀ ev ∈ brings [246] :: quiet :: brings [1, 65] :: [brings [0]], ev.failed = false) ∧
    ([brings [0]] ≠ [] → ((brings [246]).arrived ++ quiet.arrived ++ [brings [0]].flatMap LinkEvent.arrived).length < 4) ∧
    (brings [246]).arrived ++ quiet.arrived ++ [brings [0]].flatMap LinkEvent.arrived ++ (brings [1, 65]).arrived =
      246 :: 0 :: 1 :: 65 :: [] := by decide

/-- An exchange a host has issued, with a request encoded before. -/
def exchangeIssued : State := { holdingReq ⟨2, 1, 0, 3⟩ with pending := [.linkExchange] }

theorem witness_HostExchangeRunsToItsResult :
    exchangeIssued.active = none ∧ exchangeIssued.pending = .linkExchange :: [] ∧ exchangeIssued.req = .holding ⟨2, 1, 0, 3⟩ ∧
    (∀ ev ∈ quiet :: brings [1, 2, 3, 4] :: quiet :: [], ev.failed = false) ∧
    (([] : List LinkEvent) ≠ [] → (quiet.arrived ++ (brings [1, 2, 3, 4]).arrived ++ []).length < 4) ∧
    quiet.arrived ++ (brings [1, 2, 3, 4]).arrived ++ ([] : List LinkEvent).flatMap LinkEvent.arrived ++ quiet.arrived =
      1 :: 2 :: 3 :: 4 :: [] := by decide

theorem witness_TransportFailureEndsTheCall :
    (broken 2).failed = true ∧ (holdingReq ⟨2, 1, 0, 3⟩).req = .holding ⟨2, 1, 0, 3⟩ := by decide

theorem witness_InitOpensDiscardsAndWaits :
    (issued .init).active = none ∧ (issued .init).pending = .init :: [] ∧ quiet.failed = false := by decide

theorem witness_InitSetupSendsAtMostFour : (brings [1, 2, 3, 4]).failed = false := by decide

theorem witness_InitSyncSendsFour :
    (doing (.handshake (.sync 0))).active = some (.handshake (.sync 0)) ∧ ∀ ev ∈ [quiet, brings [1], quiet, quiet], ev.failed = false := by decide

/-- V12's second sample: buffered before the scan, and coming in pieces during its first three turns. -/
theorem witness_InitScanStopsAtFirstEcho :
    let buffered := { doing (.handshake (.scan 0)) with line := ⟨true, [0xFF, 0, 0, 0, 0x01, 0x02, 0xAA, 0xBB], []⟩ }
    let pieces := [brings [0xFF, 0, 0], quiet, brings [0, 0x01, 0x02, 0xAA, 0xBB, 0x07], quiet, quiet]
    (buffered.active = some (.handshake (.scan 0)) ∧
      buffered.line.input ++ ([quiet, quiet].take 0).flatMap LinkEvent.arrived =
        [Frame.mk 0xFF 0 0 0].flatMap Frame.bytes ++ (Frame.mk 0x01 0x02 0xAA 0xBB).bytes ++ [] ∧
      0 + [Frame.mk 0xFF 0 0 0].length + 1 ≤ [quiet, quiet].length) ∧
    ((doing (.handshake (.scan 254))).active = some (.handshake (.scan 254)) ∧
      (doing (.handshake (.scan 254))).line.input ++ (pieces.take 3).flatMap LinkEvent.arrived =
        [Frame.mk 0xFF 0 0 0].flatMap Frame.bytes ++ (Frame.mk 0x01 0x02 0xAA 0xBB).bytes ++ [0x07] ∧
      3 + [Frame.mk 0xFF 0 0 0].length + 1 ≤ pieces.length ∧ 254 + [Frame.mk 0xFF 0 0 0].length < 256 ∧
      ∀ ev ∈ pieces, ev.failed = false ∧ ev.shortRead = none) ∧
    (∀ f ∈ [Frame.mk 0xFF 0 0 0], f.code ≠ 1) ∧ (Frame.mk 0x01 0x02 0xAA 0xBB).code = 1 := by decide

theorem witness_InitScanGivesUpAfter256 :
    let chunks := List.replicate 256 (Frame.mk 0 1 4 0)
    let s := { doing (.handshake (.scan 0)) with line := ⟨true, chunks.flatMap Frame.bytes, []⟩ }
    s.active = some (.handshake (.scan 0)) ∧
    s.line.input ++ ((List.replicate 256 quiet).take 0).flatMap LinkEvent.arrived = chunks.flatMap Frame.bytes ++ [] ∧
    (∀ f ∈ chunks, f.code ≠ 1) ∧ chunks.length = 256 ∧ 0 + 256 ≤ (List.replicate 256 quiet).length ∧
    ∀ ev ∈ List.replicate 256 quiet, ev.failed = false ∧ ev.shortRead = none := by
  refine ⟨rfl, rfl, ?_, List.length_replicate, Nat.le_of_eq List.length_replicate.symm, ?_⟩
  · intro f h; rw [List.eq_of_mem_replicate h]; decide
  · intro ev h; rw [List.eq_of_mem_replicate h]; exact ⟨rfl, rfl⟩

/-- A turn in which a short read is over, having taken `n` bytes. -/
def givesUp (n : Nat) : LinkEvent := ⟨false, 0, [], some n⟩

/-- Turns that wait, take a chunk and end a short read, and for each kind of last turn one that is of it. -/
theorem witness_InitScanTurnsCountAttempts :
    (doing (.handshake (.scan 253))).active = some (.handshake (.scan 253)) ∧
    scanOver [brings [7, 1], brings [4, 0, 9], givesUp 1] (doing (.handshake (.scan 253))).line.input = some (2, []) ∧ 253 + 2 < 256 ∧
    253 + 2 = 255 ∧ [] ++ (brings [1, 0, 5, 6]).arrived = 1 :: 0 :: 5 :: 6 :: [] ∧
    ([] ++ (brings [0, 1, 4, 0]).arrived = 0 :: 1 :: 4 :: 0 :: [] ∧ 0#8 ≠ 1) ∧
    (([] ++ (givesUp 0).arrived).length < 4 ∧ (givesUp 0).shortRead ≠ none) ∧
    (([] ++ (brings [1, 2, 3]).arrived).length < 4 ∧ (brings [1, 2, 3]).shortRead = none) := by decide

theorem witness_DetectedCountOfReportedAddress : (1#8 ≠ 0) ∧ (255#8 ≠ 0) := by decide

end Sys2Proof.Tests
end

section
/-!
PROOFS. The scope's statements (00_scope.md): the bits of a port set's byte, and from them that the decoder and the encoder agree.
-/

namespace Sys2Proof

open Machine

/-! ### The byte of a port set (40_relay_state_codec.md R80 to R82) -/

/-- The weight of a port has one bit, at the port's own position (R53). -/
theorem getLsbD_portWeight (p : Bool) (i j : Nat) :
    (portWeight p i).getLsbD j = (p && (decide (i < 8) && decide (i = j))) := by
  cases p with
  | false => simp [portWeight]
  | true => exact BitVec.getLsbD_twoPow i j

@[simp] theorem portAt_fromByte (b : Byte) (i : Fin 8) : portAt (fromByte b) i = b.getLsbD i := by
  fin_cases i <;> rfl

theorem getLsbD_toByte (p : Ports) (i : Fin 8) : (toByte p).getLsbD i = portAt p i := by
  simp only [toByte, BitVec.getLsbD_or, getLsbD_portWeight]
  fin_cases i <;> simp [portAt]

/-- A port set is fixed by its eight ports. -/
theorem Ports.ext_portAt {p q : Ports} (h : ∀ i, portAt p i = portAt q i) : p = q := by
  cases p
  cases q
  rw [Ports.mk.injEq]
  exact ⟨h 0, h 1, h 2, h 3, h 4, h 5, h 6, h 7⟩

@[simp] theorem fromByte_toByte (p : Ports) : fromByte (toByte p) = p :=
  Ports.ext_portAt fun i => by rw [portAt_fromByte, getLsbD_toByte]

@[simp] theorem toByte_fromByte (b : Byte) : toByte (fromByte b) = b :=
  BitVec.eq_of_getLsbD_eq fun i hi => by rw [getLsbD_toByte (fromByte b) ⟨i, hi⟩, portAt_fromByte]

/-! ### The decoder undoes the encoder -/

/-- Only `RS.TOBYTE` and `RS.MAKE` need an argument: their port set is packed into the operand's byte and unpacked again. -/
theorem decode_encode (i : Instr) : decode (encode i) = .ok i := by
  cases i with
  | rsToByte p => simp [encode, decode, decodeOp]
  | rsMake p a => simp [encode, decode, decodeOp]
  | _ => rfl

/-! ### The encoder undoes the decoder, up to what is not read -/

theorem encode_of_decodeOp {sel p0 p1 p2 p3 : Byte} {i : Instr} (h : decodeOp sel p0 p1 p2 p3 = .ok i) :
    encode i = (IssueWord.op sel p0 p1 p2 p3).canonical := by
  unfold decodeOp at h
  split at h
  case h_9 => cases h -- the selects from 8 on are rejected (R70)
  all_goals
    next hsel =>
      cases h
      obtain ⟨-, rfl⟩ := BitVec.toNat_eq_nat.mp hsel
      simp [encode, IssueWord.canonical, operandCount]

theorem encode_of_decodeFrame {f : Frame} {i : Instr} (h : decodeFrame f = .ok i) :
    encode i = (IssueWord.frame f).canonical := by
  obtain ⟨code, address, data, checksum⟩ := f
  unfold decodeFrame at h
  split at h
  case h_19 => cases h -- byte 0 in 9..246 is rejected (R58)
  all_goals
    next hcode =>
      cases h
      obtain ⟨-, rfl⟩ := BitVec.toNat_eq_nat.mp hcode
      rfl

theorem encode_of_decode {w : IssueWord} {i : Instr} (h : decode w = .ok i) : encode i = w.canonical := by
  cases w with
  | op sel p0 p1 p2 p3 => exact encode_of_decodeOp h
  | frame f => exact encode_of_decodeFrame h

/-- Settles O2: both directions, each from its own lemma. -/
theorem decodeEncodeAgree : Obligations.DecodeEncodeAgree :=
  ⟨decode_encode, fun _ _ => encode_of_decode⟩

/-- Settles O1: the decoder evaluated on each of the nine words. -/
theorem specWordsDecode : Obligations.SpecWordsDecode := by
  unfold Obligations.SpecWordsDecode
  decide

end Sys2Proof
end

section
/-!
PROOFS. What an instruction does to the state, once for all 26, and the statements about all instructions that follow from it.
-/

namespace Sys2Proof.Machine

/-! ### Executing an instruction -/

/-- From `s`, and from any state with the same two frame registers, `i` puts `q` in REQ and `r` in RSP, hands back `h` and does nothing else. A
register that `i` does not write keeps its contents; what `i` writes is empty or a frame the register may hold (10_state.md R17, R18, R20). -/
structure ExecWrites (i : Instr) (s : State) (q r : FrameReg) (h : Handed) : Prop where
  runs : ∀ s' : State, s'.req = s.req → s'.rsp = s.rsp → exec i s' = .next (((s'.setReq q).setRsp r).handBack h)
  req_kept : i.writesReq = false → q = s.req
  req_good : i.writesReq = true → ∀ f, q = .holding f → goodRequest f
  rsp_kept : i.writesRsp = false → r = s.rsp
  rsp_good : i.writesRsp = true → ∀ f, r = .holding f → 247 ≤ f.code.toNat

theorem goodRequest_requestFrame {c : Byte} (a d : Byte) (h : c.toNat ≤ 8) : goodRequest (requestFrame c a d) := ⟨h, rfl⟩

theorem readRsp_congr {s s' : State} (h : s'.rsp = s.rsp) : readRsp s' = readRsp s := by
  simp [readRsp, h]

/-- What `finish` hands back depends on the result alone. -/
theorem finish_handBack (x : Except Err Handed) : ∃ h, ∀ s, finish x s = .next (s.handBack h) := by
  cases x with
  | ok h => exact ⟨h, fun _ => rfl⟩
  | error e => exact ⟨.error e, fun _ => rfl⟩

/-- An instruction that writes no register and only hands something back. -/
theorem ExecWrites.of_handBack {i : Instr} {s : State} {h : Handed} (hq : i.writesReq = false) (hr : i.writesRsp = false)
    (he : ∀ s' : State, s'.rsp = s.rsp → exec i s' = .next (s'.handBack h)) : ExecWrites i s s.req s.rsp h where
  runs s' hreq hrsp := by rw [he s' hrsp, ← hreq, ← hrsp]; rfl
  req_kept _ := rfl
  req_good hw := by simp [hq] at hw
  rsp_kept _ := rfl
  rsp_good hw := by simp [hr] at hw

theorem execWrites_of_issueEncode {i : Instr} {c a d : Byte} (s : State) (he : ∀ s, exec i s = issueEncode c a d s)
    (hq : i.writesReq = true) (hr : i.writesRsp = false) : ∃ q h, ExecWrites i s q s.rsp h := by
  by_cases hc : c.toNat ≤ 8
  · refine ⟨.holding (requestFrame c a d), .request (requestFrame c a d), fun s' _ hrsp => ?_, by simp [hq], ?_, fun _ => rfl, by simp [hr]⟩
    · rw [he, issueEncode_ok a d s' hc, ← hrsp]; rfl
    · rintro - f ⟨⟩
      exact goodRequest_requestFrame a d hc
  · refine ⟨.empty, .error (.configuration c), fun s' _ hrsp => ?_, by simp [hq], by simp, fun _ => rfl, by simp [hr]⟩
    rw [he, issueEncode_error a d s' hc, ← hrsp]; rfl

theorem execWrites_of_issueDecode {i : Instr} {f : Frame} (s : State) (he : ∀ s, exec i s = issueDecode f s)
    (hq : i.writesReq = false) (hr : i.writesRsp = true) : ∃ r h, ExecWrites i s s.req r h := by
  by_cases hf : 247 ≤ f.code.toNat
  · refine ⟨.holding f, .response f, fun s' hreq _ => ?_, fun _ => rfl, by simp [hq], by simp [hr], ?_⟩
    · rw [he, issueDecode_ok s' hf, ← hreq]; rfl
    · rintro - g ⟨⟩
      exact hf
  · refine ⟨.empty, .error (.decode f.code), fun s' hreq _ => ?_, fun _ => rfl, by simp [hq], by simp [hr], by simp⟩
    rw [he, issueDecode_error s' hf, ← hreq]; rfl

/-- Every instruction completes from every state. -/
theorem exec_writes (i : Instr) (s : State) : ∃ q r h, ExecWrites i s q r h := by
  rcases exec_forms i with ⟨c, a, d, he, hq, hr⟩ | ⟨f, he, hq, hr⟩ | ⟨x, he, hq, hr⟩ | ⟨g, he, hq, hr⟩
  · obtain ⟨q, h, hw⟩ := execWrites_of_issueEncode s he hq hr
    exact ⟨q, _, h, hw⟩
  · obtain ⟨r, h, hw⟩ := execWrites_of_issueDecode s he hq hr
    exact ⟨_, r, h, hw⟩
  · obtain ⟨h, hx⟩ := finish_handBack x
    exact ⟨_, _, h, .of_handBack hq hr fun s' _ => (he s').trans (hx s')⟩
  · obtain ⟨h, hx⟩ := finish_handBack ((readRsp s).map g)
    exact ⟨_, _, h, .of_handBack hq hr fun s' hrsp => by rw [he, readRsp_congr hrsp, hx]⟩

/-- The next state of an instruction. -/
theorem exec_next {i : Instr} {s t : State} (ht : exec i s = .next t) :
    ∃ q r h, ExecWrites i s q r h ∧ t = ((s.setReq q).setRsp r).handBack h := by
  obtain ⟨q, r, h, hw⟩ := exec_writes i s
  rw [hw.runs s rfl rfl] at ht
  cases ht
  exact ⟨q, r, h, hw, rfl⟩

/-! ### The statements about all instructions -/

/-- Settles O22: the registers an instruction leaves are those it writes, or as they were. -/
theorem everyInstructionCompletesInItsFrame : Obligations.EveryInstructionCompletesInItsFrame := by
  intro i s
  obtain ⟨q, r, h, hw⟩ := exec_writes i s
  exact ⟨q, r, h, hw.runs s rfl rfl, hw.req_kept, hw.rsp_kept⟩

/-- Settles O24: the two states have the same frame registers, and nothing else decides what an instruction does. -/
theorem instructionsIgnoreTheEnvironment : Obligations.InstructionsIgnoreTheEnvironment := by
  intro i s t l m n k ht
  obtain ⟨q, r, h, hw, rfl⟩ := exec_next ht
  exact hw.runs _ rfl rfl

/-- The codes of requests and of responses do not meet (30_encoding.md R58). -/
theorem exec_rspDecode_of_goodRequest {f : Frame} (s : State) (hf : goodRequest f) :
    exec (.rspDecode f) s = .next { s with rsp := .empty, handed := s.handed ++ [.error (.decode f.code)] } := by
  obtain ⟨hcode, -⟩ := hf
  exact issueDecode_error s (by omega)

/-- Settles O21: what REQ holds is a request in the first half by hypothesis, in the second because the instruction has just written it. -/
theorem requestFedToDecoderIsDecodeError : Obligations.RequestFedToDecoderIsDecodeError := by
  refine ⟨fun s f hgood hreq => exec_rspDecode_of_goodRequest s (hgood f hreq), fun s t i f hi ht hreq => ?_⟩
  obtain ⟨q, r, h, hw, rfl⟩ := exec_next ht
  exact exec_rspDecode_of_goodRequest _ (hw.req_good hi f hreq)

/-- Settles O5: a word is begun by running what it decodes to. -/
theorem stepRunsDecodedInstruction : Obligations.StepRunsDecodedInstruction := by
  have hissue : ∀ {w i} (s : State), decode w = .ok i → issueWord w s = exec i s := fun s hd => by simp [issueWord, hd]
  refine ⟨fun s w rest i ha hp hd => ?_, fun s nbits w i hd => ?_⟩
  · rcases hp with hp | hp
    · exact (step_begin ha hp).trans (hissue _ hd)
    · exact (step_begin ha hp).trans (hissue _ hd)
  · have hd' : decode (tableWord nbits w) = .ok i := by
      unfold decodeTableWord at hd
      split at hd
      · next hok => rw [hok, Option.some.inj hd]
      · cases hd
    exact (step_begin (s := s.withFetchWord nbits w) rfl rfl).trans (hissue _ hd')

end Sys2Proof.Machine
end

section
/-!
PROOFS. What one turn of the call in progress can do (20_memory.md R42, R48): a turn writes, and then waits, moves the call on or ends it.
-/

namespace Sys2Proof.Machine

/-- What a turn of `a` that leads from `s` to `t` does to the registers, the calls and the marks. -/
structure TurnWrites (a : Activity) (s t : State) : Prop where
  pending : t.pending = s.pending
  req : t.req = s.req ∨ (∃ c x d w, a = .encode c x d w) ∧ t.reqGood
  rsp : t.rsp = s.rsp ∨ (∃ g w, a = .decodeResponse g w) ∧ t.rspGood
  marks : (t.detectedCount = s.detectedCount ∧ t.initialized = s.initialized) ∨
    ∃ n, a = .handshake (.closing n) ∧ t.detectedCount = n ∧ t.initialized = decide (1 ≤ n)

/-- All that a turn of `a` that leads from `s` to `t` does: if the channel, the call's own data and the registers were as they have to be at `a`, they are
so at the turn that follows, and no NoValue is handed back. -/
structure TurnsTo (a : Activity) (s t : State) : Prop extends TurnWrites a s t where
  channel : s.line.channelOpen = a.channelOpen → t.line.channelOpen = (t.active.map Activity.channelOpen).getD false
  phase : a.inRange → ∀ b, t.active = some b → b.inRange
  owns : a.owns s → ∀ b, t.active = some b → b.owns t
  handed : a.owns s → ∀ r, t.handed ≠ s.handed ++ [.error (.noValue r)]

/-- What a call finds in the frame registers depends on nothing else. -/
theorem Activity.owns_of_registers_eq {a : Activity} {s t : State} (hq : t.req = s.req) (hr : t.rsp = s.rsp) (h : a.owns s) : a.owns t := by
  cases a with
  | encode | handshake => trivial
  | openLink | writeFrame | readFrame | decodeResponse => simpa [Activity.owns, State.reqV, hq] using h
  | decodeState r => exact hr.trans h

variable {a b : Activity} {s u : State} {h : Handed}

/-! ### How a turn writes, and how it goes on -/

theorem TurnWrites.setLine (l : Line) : TurnWrites a s (s.setLine l) :=
  ⟨rfl, .inl rfl, .inl rfl, .inl ⟨rfl, rfl⟩⟩

theorem TurnWrites.unchanged : TurnWrites a s s := .setLine s.line

theorem TurnWrites.setReq {c x d : Byte} {w : Bool} {q : FrameReg} (hq : ∀ f, q = .holding f → goodRequest f) :
    TurnWrites (.encode c x d w) s (s.setReq q) :=
  ⟨rfl, .inr ⟨⟨c, x, d, w, rfl⟩, hq⟩, .inl rfl, .inl ⟨rfl, rfl⟩⟩

theorem TurnWrites.setRsp {g : Frame} {w : Bool} {r : FrameReg} (hr : ∀ f, r = .holding f → 247 ≤ f.code.toNat) :
    TurnWrites (.decodeResponse g w) s (s.setRsp r) :=
  ⟨rfl, .inl rfl, .inr ⟨⟨g, w, rfl⟩, hr⟩, .inl ⟨rfl, rfl⟩⟩

/-- The call stays where it is: a read or a scan that has too few bytes. -/
theorem TurnsTo.waits (l : Line) (ha : s.active = some a) (hl : l.channelOpen = s.line.channelOpen) : TurnsTo a s (s.setLine l) where
  toTurnWrites := .setLine l
  channel hc := by simp [ha, hl, hc]
  phase hr b hb := by
    obtain rfl : a = b := by simpa [ha] using hb
    exact hr
  owns ho b hb := by
    obtain rfl : a = b := by simpa [ha] using hb
    exact Activity.owns_of_registers_eq (s := s) rfl rfl ho
  handed _ r := by simp

/-- The call moves on to `b` after the writes that make `u` of `s`. -/
theorem TurnsTo.moves (hw : TurnWrites a s u) (hu : u.handed = s.handed) (hl : s.line.channelOpen = a.channelOpen → u.line.channelOpen = b.channelOpen)
    (hr : a.inRange → b.inRange) (ho : a.owns s → b.owns u) : TurnsTo a s (u.setActive (some b)) where
  toTurnWrites := ⟨hw.pending, hw.req, hw.rsp, hw.marks⟩
  channel := hl
  phase ha c hc := by
    obtain rfl : b = c := Option.some.inj hc
    exact hr ha
  owns ha c hc := by
    obtain rfl : b = c := Option.some.inj hc
    exact Activity.owns_of_registers_eq (s := u) rfl rfl (ho ha)
  handed _ r := by simp [hu]

/-- The call is over after the writes that make `u` of `s`, and hands back `h`. -/
theorem TurnsTo.ends (hw : TurnWrites a s u) (hu : u.handed = s.handed) (hl : s.line.channelOpen = a.channelOpen → u.line.channelOpen = false)
    (hh : a.owns s → ∀ r, h ≠ .error (.noValue r)) : TurnsTo a s ((u.setActive none).handBack h) where
  toTurnWrites := ⟨hw.pending, hw.req, hw.rsp, hw.marks⟩
  channel := hl
  phase _ b hb := by cases hb
  owns _ b hb := by cases hb
  handed ho r := by simpa [hu] using hh ho r

theorem TurnsTo.fails (bs : List Byte) : TurnsTo a s (s.transportFailure bs) :=
  .ends (.setLine _) rfl (fun _ => rfl) (by simp)

/-! ### The turns of an exchange and of a pseudo-instruction -/

variable (s) (ev : LinkEvent) (p : Purpose)

theorem commandEncode_turnsTo (c x d : Byte) (w : Bool) : TurnsTo (.encode c x d w) s (commandEncode c x d w s) := by
  by_cases hc : c.toNat ≤ 8
  · simp only [commandEncode, encodeRequest_ok x d s hc]
    refine .moves (.setReq ?_) rfl id (fun _ => trivial) fun _ => rfl
    rintro f ⟨⟩
    exact goodRequest_requestFrame x d hc
  · simp only [commandEncode, encodeRequest_error x d s hc]
    exact .ends (.setReq (by simp)) rfl id (by simp)

theorem linkOpen_turnsTo : TurnsTo (.openLink p) s (linkOpen ev p s) := by
  unfold linkOpen
  split
  · exact .fails []
  · exact .moves (.setLine _) rfl (fun _ => rfl) id id

/-- The write turn of a call that has encoded its request finds it in REQ, so there is no NoValue. -/
theorem linkWrite_turnsTo : TurnsTo (.writeFrame p) s (linkWrite ev p s) := by
  rcases readReq_cases s with ⟨hq, hread⟩ | ⟨f, -, hread⟩ <;> simp only [linkWrite, hread]
  · refine .ends (.setLine _) rfl (fun _ => rfl) fun ho => ?_
    simp [Activity.owns, State.reqV, hq] at ho
  · split
    · exact .fails _
    · exact .moves (.setLine _) rfl id id id

theorem linkRead_turnsTo (ha : s.active = some (.readFrame p)) : TurnsTo (.readFrame p) s (linkRead ev p s) := by
  rcases linkRead_cases ev p s with ⟨-, e⟩ | ⟨-, _, _, _, _, _, -, e⟩ | ⟨-, -, e⟩ <;> rw [e]
  · exact .fails []
  · cases p with
    | raw => exact .ends (.setLine _) rfl (fun _ => rfl) (by simp)
    | command w => exact .moves (.setLine _) rfl (fun _ => rfl) id id
  · exact .waits _ ha rfl

theorem commandDecode_turnsTo (g : Frame) (w : Bool) : TurnsTo (.decodeResponse g w) s (commandDecode g w s) := by
  by_cases hg : 247 ≤ g.code.toNat
  · have hw : TurnWrites (.decodeResponse g w) s (s.setRsp (.holding g)) := .setRsp (by rintro f ⟨⟩; exact hg)
    simp only [commandDecode, decodeResponse_ok s hg]
    split
    · exact .moves hw rfl id (fun _ => trivial) fun _ => rfl
    · exact .ends hw rfl id (by simp)
  · simp only [commandDecode, decodeResponse_error s hg]
    exact .ends (.setRsp (by simp)) rfl id (by simp)

/-- The last step of a call that has decoded its response finds it in RSP, so there is no NoValue. -/
theorem commandState_turnsTo (r : Frame) : TurnsTo (.decodeState r) s (commandState r s) := by
  rcases readRsp_cases s with ⟨hr, hread⟩ | ⟨f, -, hread⟩ <;> simp only [commandState, hread]
  · refine .ends .unchanged rfl id fun ho => ?_
    simp [Activity.owns, hr] at ho
  · exact .ends .unchanged rfl id (by simp)

/-! ### The turns of INIT -/

theorem detectedCountOf_range (r : Byte) : -1 ≤ detectedCountOf r ∧ detectedCountOf r ≤ 255 := by
  unfold detectedCountOf
  split <;> omega

/-- The scan goes on with the channel open and stays within its 256 attempts. -/
theorem scanOn_inRange (k : Nat) : (Activity.handshake (scanOn k)).inRange := by
  unfold scanOn
  split
  · exact ⟨by decide, by decide⟩
  · next hk => exact Nat.lt_of_not_le hk

theorem scanOn_channelOpen (k : Nat) : (Activity.handshake (scanOn k)).channelOpen = true := by
  unfold scanOn
  split <;> rfl

/-- A turn of INIT that moves on to a phase with the channel open. -/
theorem TurnsTo.movesToPhase {ph ph' : InitPhase} {l : Line} (hl : s.line.channelOpen = (Activity.handshake ph).channelOpen → l.channelOpen = true)
    (hopen : (Activity.handshake ph').channelOpen = true) (hr : (Activity.handshake ph).inRange → (Activity.handshake ph').inRange) :
    TurnsTo (.handshake ph) s ((s.setLine l).setPhase ph') :=
  .moves (.setLine l) rfl (fun hc => (hl hc).trans hopen.symm) hr id

theorem initOpen_turnsTo : TurnsTo (.handshake .opening) s (initOpen ev s) := by
  unfold initOpen
  split
  · exact .fails []
  · exact .movesToPhase s (fun _ => rfl) rfl fun _ => (by decide : 0 < Config.setupTries)

theorem initSetup_turnsTo (k : Nat) : TurnsTo (.handshake (.setup k)) s (initSetup ev k s) := by
  unfold initSetup
  split
  · exact .fails _
  · split
    · exact .movesToPhase s id rfl fun _ => trivial
    · next hk => exact .movesToPhase s id rfl fun _ => Nat.lt_of_not_le fun hle => hk (.inr hle)

theorem initChainWait_turnsTo : TurnsTo (.handshake .chainWait) s (initChainWait ev s) :=
  .movesToPhase s id rfl fun _ => (by decide : 0 < Config.syncCount)

theorem initSync_turnsTo (k : Nat) : TurnsTo (.handshake (.sync k)) s (initSync ev k s) := by
  unfold initSync
  split
  · exact .fails _
  · split
    · exact .movesToPhase s id rfl fun _ => trivial
    · next hk => exact .movesToPhase s id rfl fun _ => Nat.lt_of_not_le hk

theorem initSyncWait_turnsTo : TurnsTo (.handshake .syncWait) s (initSyncWait ev s) :=
  .movesToPhase s id rfl fun _ => (by decide : 0 < Config.chunkAttempts)

theorem initScan_turnsTo (k : Nat) (ha : s.active = some (.handshake (.scan k))) : TurnsTo (.handshake (.scan k)) s (initScan ev k s) := by
  rcases initScan_cases ev k s with ⟨-, e⟩ | ⟨-, _, b1, _, _, _, -, e⟩ | ⟨-, -, -, e⟩ | ⟨-, -, _, -, e⟩ <;> rw [e]
  · exact .fails []
  · split
    · exact .movesToPhase s id rfl fun _ => detectedCountOf_range b1
    · exact .movesToPhase s id (scanOn_channelOpen k) fun _ => scanOn_inRange k
  · exact .waits _ ha rfl
  · exact .movesToPhase s id (scanOn_channelOpen k) fun _ => scanOn_inRange k

theorem initClose_turnsTo (n : Int) : TurnsTo (.handshake (.closing n)) s (initClose n s) :=
  .ends ⟨rfl, .inl rfl, .inl rfl, .inr ⟨n, rfl, rfl, rfl⟩⟩ rfl (fun _ => rfl) (by simp)

theorem handshakeTurn_turnsTo (ph : InitPhase) (ha : s.active = some (.handshake ph)) : TurnsTo (.handshake ph) s (handshakeTurn ev ph s) := by
  cases ph with
  | opening => exact initOpen_turnsTo s ev
  | setup k => exact initSetup_turnsTo s ev k
  | chainWait => exact initChainWait_turnsTo s ev
  | sync k => exact initSync_turnsTo s ev k
  | syncWait => exact initSyncWait_turnsTo s ev
  | scan k => exact initScan_turnsTo s ev k ha
  | closing n => exact initClose_turnsTo s n

/-- Every turn of the call in progress, whatever the link does in it. -/
theorem advanceWith_turnsTo (ha : s.active = some a) : TurnsTo a s (advanceWith ev a s) := by
  cases a with
  | encode c x d w => exact commandEncode_turnsTo s c x d w
  | openLink p => exact linkOpen_turnsTo s ev p
  | writeFrame p => exact linkWrite_turnsTo s ev p
  | readFrame p => exact linkRead_turnsTo s ev p ha
  | decodeResponse g w => exact commandDecode_turnsTo s g w
  | decodeState r => exact commandState_turnsTo s r
  | handshake ph => exact handshakeTurn_turnsTo s ev ph ha

end Sys2Proof.Machine
end

section
/-!
PROOFS. What one step can do, and the invariants of the machine (10_state.md R17, R18, R20, R23): each part of them is kept by every step, and together
they are State.Safe and State.Inv.
-/

namespace Sys2Proof.Machine

/-! ### Beginning a call, and one step -/

/-- Beginning a call that is no word ends it at once with an error, or makes it the call in progress, at a turn that has its operands in range, the channel
closed, and what it reads of the registers there. -/
def Begins (s t : State) : Prop :=
  (∃ e, t = s.raise e) ∨ ∃ a : Activity, t = s.setActive (some a) ∧ a.inRange ∧ a.channelOpen = false ∧ a.owns s

theorem begins_beginCommand {c : Byte} (a d : Byte) (w : Bool) (s : State) (hc : c.toNat ≤ 8) : Begins s (beginCommand c a d w s) := by
  unfold beginCommand
  split
  · exact .inl ⟨_, rfl⟩
  · next ha => exact .inr ⟨_, rfl, ⟨hc, fun h0 => ha ((addressRefused_iff a).mpr h0)⟩, rfl, trivial⟩

theorem begins_beginToggle1 (a k : Byte) (s : State) : Begins s (beginToggle1 a k s) := by
  unfold beginToggle1
  split
  · exact .inl ⟨_, rfl⟩
  · exact begins_beginCommand _ _ _ s (by decide)

theorem beginExchange_of_empty {s : State} (h : s.req = .empty) : beginExchange s = s.raise (.noValue .req) := by
  simp [beginExchange, readReq, h]

theorem begins_beginExchange (s : State) : Begins s (beginExchange s) := by
  rcases readReq_cases s with ⟨hq, -⟩ | ⟨f, hq, hread⟩
  · exact .inl ⟨_, beginExchange_of_empty hq⟩
  · exact .inr ⟨.openLink .raw, by simp [beginExchange, hread], trivial, rfl, by simp [Activity.owns, State.reqV, hq]⟩

theorem issueWord_next {w : IssueWord} {s t : State} (h : issueWord w s = .next t) : ∃ i, decode w = .ok i ∧ exec i s = .next t := by
  unfold issueWord at h
  split at h
  · next i hd => exact ⟨i, hd, h⟩
  · cases h

/-- A call that is issued runs the instruction of its word, or begins. -/
theorem issue_next {c : Call} {s t : State} (h : issue c s = .next t) :
    (∃ w i, (c = .word w ∨ c = .unguarded w) ∧ decode w = .ok i ∧ exec i s = .next t) ∨ Begins s t := by
  cases c with
  | word w =>
    obtain ⟨i, hd, hi⟩ := issueWord_next h
    exact .inl ⟨w, i, .inl rfl, hd, hi⟩
  | unguarded w =>
    obtain ⟨i, hd, hi⟩ := issueWord_next h
    exact .inl ⟨w, i, .inr rfl, hd, hi⟩
  | linkExchange => cases h; exact .inr (begins_beginExchange s)
  | cmdSetPort r => cases h; exact .inr (begins_beginCommand _ _ _ s (by decide))
  | cmdGetPort a => cases h; exact .inr (begins_beginCommand _ _ _ s (by decide))
  | cmdSetSingle r => cases h; exact .inr (begins_beginCommand _ _ _ s (by decide))
  | cmdDelSingle r => cases h; exact .inr (begins_beginCommand _ _ _ s (by decide))
  | cmdToggle r => cases h; exact .inr (begins_beginCommand _ _ _ s (by decide))
  | cmdToggle1 a k => cases h; exact .inr (begins_beginToggle1 a k s)
  | init => cases h; exact .inr (.inr ⟨_, rfl, trivial, rfl, trivial⟩)

/-- The word that a step may run, ahead of the calls `rest`: with no call in progress any, and between two turns one of a host that breaks its duty, or one
that writes no frame register (log entry 10). -/
def MayRun (s : State) (w : IssueWord) (i : Instr) (rest : List Call) : Prop :=
  (s.active = none ∧ s.pending = .word w :: rest ∨ s.pending = .unguarded w :: rest) ∨
    s.pending = .word w :: rest ∧ i.writesReq = false ∧ i.writesRsp = false

/-- Everything a step that answers a next state can be. -/
inductive Stepped (s t : State) : Prop where
  /-- A turn of the call in progress. -/
  | turn (a : Activity) (ha : s.active = some a) (ht : t = advanceWith s.linkEvent a s.nextDraw)
  /-- Nothing is issued. -/
  | idle (ht : t = s)
  /-- An instruction runs. -/
  | ran (w : IssueWord) (i : Instr) (rest : List Call) (n : Nat) (hp : MayRun s w i rest) (hd : decode w = .ok i)
      (ht : exec i { s with pending := rest, draws := n } = .next t)
  /-- A call is refused. -/
  | refused (c : Call) (rest : List Call) (n : Nat) (e : Err) (hp : s.pending = c :: rest)
      (ht : t = { s with pending := rest, draws := n, handed := s.handed ++ [.error e] })
  /-- A call becomes the call in progress. -/
  | began (c : Call) (rest : List Call) (a : Activity) (ha : s.active = none) (hp : s.pending = c :: rest) (hr : a.inRange)
      (hl : a.channelOpen = false) (ho : a.owns s) (ht : t = { s with pending := rest, active := some a })

theorem step_next {s t : State} (h : step s = .next t) : Stepped s t := by
  rcases step_cases s with ⟨a, ha, e⟩ | ⟨-, -, e⟩ | ⟨c, rest, ha, hp, e⟩ | ⟨a, c, rest, ha, hp, hc, e⟩ <;> rw [e] at h
  · cases h
    exact .turn a ha rfl
  · cases h
    exact .idle rfl
  · rcases issue_next h with ⟨w, i, rfl | rfl, hd, hi⟩ | ⟨er, rfl⟩ | ⟨a, rfl, hr, hl, ho⟩
    · exact .ran w i rest s.draws (.inl (.inl ⟨ha, hp⟩)) hd hi
    · exact .ran w i rest s.draws (.inl (.inr hp)) hd hi
    · exact .refused c rest s.draws er hp rfl
    · exact .began c rest a ha hp hr hl (Activity.owns_of_registers_eq rfl rfl ho) rfl
  · rcases runsBetween_cases hc with ⟨w, i, rfl, hd, hq, hr, hi⟩ | ⟨w, i, rfl, hd, hi⟩ | ⟨b, hb⟩
    · exact .ran w i rest (s.draws + 1) (.inr ⟨hp, hq, hr⟩) hd ((hi _).symm.trans h)
    · exact .ran w i rest (s.draws + 1) (.inl (.inr hp)) hd ((hi _).symm.trans h)
    · rw [hb] at h
      cases h
      exact .refused c rest (s.draws + 1) (.configuration b) hp rfl

variable {s t : State}

/-- A turn as the step makes it, the oracle's counter moved on. -/
theorem turnsTo_of_step {a : Activity} (ha : s.active = some a) : TurnsTo a s.nextDraw (advanceWith s.linkEvent a s.nextDraw) :=
  advanceWith_turnsTo s.nextDraw s.linkEvent ha

/-- An instruction that runs in a step writes a register only if it is a writer, and keeps everything but the registers and the outcomes. -/
theorem ran_next {i : Instr} {rest : List Call} {n : Nat} (ht : exec i { s with pending := rest, draws := n } = .next t) :
    ∃ q r h, ExecWrites i { s with pending := rest, draws := n } q r h ∧
      t = { s with req := q, rsp := r, pending := rest, handed := s.handed ++ [h], draws := n } := exec_next ht

/-! ### The frame registers -/

/-- The next issued call is a word of an instruction that `writes`, and a step may run it: with no call in progress, or because its host breaks the duty to
wait (log entry 10). -/
def WriterMayRun (s : State) (writes : Instr → Bool) : Prop :=
  ∃ w rest i, (s.active = none ∧ s.pending = .word w :: rest ∨ s.pending = .unguarded w :: rest) ∧ decode w = .ok i ∧ writes i = true

/-- A step leaves each frame register as it is, or is the encoding or decoding step or a writer, and then leaves in it nothing but a frame it may hold. -/
theorem step_writes_registers (h : step s = .next t) :
    (t.req = s.req ∨ ((∃ c a d w, s.active = some (.encode c a d w)) ∨ WriterMayRun s Instr.writesReq) ∧ t.reqGood) ∧
    (t.rsp = s.rsp ∨ ((∃ g w, s.active = some (.decodeResponse g w)) ∨ WriterMayRun s Instr.writesRsp) ∧ t.rspGood) := by
  cases step_next h with
  | turn a ha ht =>
    subst ht
    have hturn := turnsTo_of_step ha
    refine ⟨hturn.req.imp_right ?_, hturn.rsp.imp_right ?_⟩
    · rintro ⟨⟨c, x, d, w, rfl⟩, hgood⟩
      exact ⟨.inl ⟨c, x, d, w, ha⟩, hgood⟩
    · rintro ⟨⟨g, w, rfl⟩, hgood⟩
      exact ⟨.inl ⟨g, w, ha⟩, hgood⟩
  | ran w i rest n hp hd ht =>
    obtain ⟨q, r, h, hw, rfl⟩ := ran_next ht
    constructor
    · cases hi : i.writesReq with
      | false => exact .inl (hw.req_kept hi)
      | true => exact .inr ⟨.inr ⟨w, rest, i, hp.resolve_right (by simp [hi]), hd, hi⟩, hw.req_good hi⟩
    · cases hi : i.writesRsp with
      | false => exact .inl (hw.rsp_kept hi)
      | true => exact .inr ⟨.inr ⟨w, rest, i, hp.resolve_right (by simp [hi]), hd, hi⟩, hw.rsp_good hi⟩
  | idle ht | refused _ _ _ _ _ ht | began _ _ _ _ _ _ _ _ ht => subst ht; exact ⟨.inl rfl, .inl rfl⟩

/-- Settles O31: a register that differs afterwards has been written. -/
theorem frameRegistersHaveNoOtherWriter : Obligations.FrameRegistersHaveNoOtherWriter := by
  intro s t h
  obtain ⟨hreq, hrsp⟩ := step_writes_registers h
  exact ⟨fun hne => (hreq.resolve_left hne).1, fun hne => (hrsp.resolve_left hne).1⟩

/-- Settles O29: REQ holds what it held, or what its writer has just put there. -/
theorem requestRegisterStaysGood : Obligations.RequestRegisterStaysGood := by
  intro s t hs h
  obtain ⟨hkept | ⟨-, hgood⟩, -⟩ := step_writes_registers h
  · exact fun f hf => hs f (hkept.symm.trans hf)
  · exact hgood

/-- Settles O30: RSP holds what it held, or what its writer has just put there. -/
theorem responseRegisterStaysGood : Obligations.ResponseRegisterStaysGood := by
  intro s t hs h
  obtain ⟨-, hkept | ⟨-, hgood⟩⟩ := step_writes_registers h
  · exact fun f hf => hs f (hkept.symm.trans hf)
  · exact hgood

/-! ### The invariant -/

/-- The channel and the call in progress: State.Safe's part about them. -/
theorem step_keeps_position (hc : s.line.channelOpen = (s.active.map Activity.channelOpen).getD false)
    (hp : ∀ a, s.active = some a → a.inRange) (h : step s = .next t) :
    t.line.channelOpen = (t.active.map Activity.channelOpen).getD false ∧ ∀ a, t.active = some a → a.inRange := by
  cases step_next h with
  | turn a ha ht =>
    subst ht
    have hturn := turnsTo_of_step ha
    exact ⟨hturn.channel (by simp [hc, ha]), hturn.phase (hp a ha)⟩
  | ran w i rest n _ _ ht =>
    obtain ⟨q, r, h, -, rfl⟩ := ran_next ht
    exact ⟨hc, hp⟩
  | idle ht | refused _ _ _ _ _ ht => subst ht; exact ⟨hc, hp⟩
  | began c rest a ha _ hr hl _ ht =>
    subst ht
    exact ⟨by simp [hc, ha, hl], fun b hb => Option.some.inj hb ▸ hr⟩

/-- The controller's marks: State.Safe's part about them. The closing turn of INIT writes a count that is in range because that turn is. -/
theorem step_keeps_marks (hs : s.Safe) (h : step s = .next t) :
    (-1 ≤ t.detectedCount ∧ t.detectedCount ≤ 255) ∧ t.initialized = decide (1 ≤ t.detectedCount) := by
  cases step_next h with
  | turn a ha ht =>
    subst ht
    rcases (turnsTo_of_step ha).marks with ⟨hcount, hmark⟩ | ⟨n, rfl, hcount, hmark⟩ <;> rw [hcount, hmark]
    · exact ⟨hs.count, hs.mark⟩
    · exact ⟨hs.phase _ ha, rfl⟩
  | ran w i rest n _ _ ht =>
    obtain ⟨q, r, h, -, rfl⟩ := ran_next ht
    exact ⟨hs.count, hs.mark⟩
  | idle ht | refused _ _ _ _ _ ht | began _ _ _ _ _ _ _ _ ht => subst ht; exact ⟨hs.count, hs.mark⟩

/-- Settles O28: the parts of State.Safe one by one. -/
theorem stepKeepsTheMachineSafe : Obligations.StepKeepsTheMachineSafe := by
  intro s t hs h
  obtain ⟨hchannel, hphase⟩ := step_keeps_position hs.channel hs.phase h
  obtain ⟨hcount, hmark⟩ := step_keeps_marks hs h
  exact ⟨requestRegisterStaysGood s t hs.req h, responseRegisterStaysGood s t hs.rsp h, hcount, hmark, hchannel, hphase⟩

/-- A step issues no call: those that are left were issued before. -/
theorem step_pending_subset (h : step s = .next t) : t.pending ⊆ s.pending := by
  cases step_next h with
  | turn a ha ht => subst ht; exact (turnsTo_of_step ha).pending ▸ List.Subset.refl _
  | idle ht => subst ht; exact List.Subset.refl _
  | ran w i rest n hp _ ht =>
    obtain ⟨q, r, h, -, rfl⟩ := ran_next ht
    rcases hp with (⟨-, hp⟩ | hp) | ⟨hp, -⟩ <;> exact hp ▸ List.subset_cons_self _ _
  | refused _ _ _ _ hp ht | began _ _ _ _ hp _ _ _ ht => subst ht; exact hp ▸ List.subset_cons_self _ _

/-- With dutiful hosts a word that runs during a call writes no frame register (R48, R216). -/
theorem MayRun.writes_nothing {w : IssueWord} {i : Instr} {rest : List Call} {a : Activity} (hp : MayRun s w i rest) (hd : decode w = .ok i)
    (hduty : ∀ c ∈ s.pending, c.keepsDuty) (ha : s.active = some a) : i.writesReq = false ∧ i.writesRsp = false := by
  rcases hp with (⟨hnone, -⟩ | hp) | ⟨-, hi⟩
  · simp [ha] at hnone
  · exact hduty (.unguarded w) (by simp [hp]) i hd
  · exact hi

/-- The registers hold what the call in progress needs: State.Inv's part about it (10_state.md R23). -/
theorem step_keeps_owns (hs : s.Inv) (h : step s = .next t) : ∀ a, t.active = some a → a.owns t := by
  cases step_next h with
  | turn a ha ht =>
    subst ht
    exact (turnsTo_of_step ha).owns (Activity.owns_of_registers_eq rfl rfl (hs.owns a ha))
  | idle ht => subst ht; exact hs.owns
  | ran w i rest n hp hd ht =>
    obtain ⟨q, r, h, hw, rfl⟩ := ran_next ht
    intro a ha
    obtain ⟨hq, hr⟩ := hp.writes_nothing hd hs.duty ha
    exact Activity.owns_of_registers_eq (hw.req_kept hq) (hw.rsp_kept hr) (hs.owns a ha)
  | refused c rest n e _ ht =>
    subst ht
    exact fun a ha => Activity.owns_of_registers_eq rfl rfl (hs.owns a ha)
  | began c rest a _ _ _ _ ho ht =>
    subst ht
    exact fun b hb => Option.some.inj hb ▸ Activity.owns_of_registers_eq rfl rfl ho

/-- Settles O27: State.Safe, and the two parts that speak of the hosts' duties. -/
theorem stepKeepsTheInvariant : Obligations.StepKeepsTheInvariant := fun s t hs h =>
  { toSafe := stepKeepsTheMachineSafe s t hs.toSafe h
    duty := fun c hc => hs.duty c (step_pending_subset h hc)
    owns := step_keeps_owns hs h }

/-- Settles O43: a step that takes no call off is a turn, or idle. -/
theorem noCallInProgressRaisesNoValue : Obligations.NoCallInProgressRaisesNoValue := by
  intro s t a r hs _ h hpend
  cases step_next h with
  | turn a ha ht =>
    subst ht
    exact (turnsTo_of_step ha).handed (Activity.owns_of_registers_eq rfl rfl (hs.owns a ha)) r
  | idle ht => subst ht; simp
  | ran w i rest n hp _ ht =>
    obtain ⟨q, r, h, -, rfl⟩ := ran_next ht
    rcases hp with (⟨-, hp⟩ | hp) | ⟨hp, -⟩ <;> simp [hp] at hpend
  | refused _ _ _ _ hp ht | began _ _ _ _ hp _ _ _ ht => subst ht; simp [hp] at hpend

/-! ### Reset and the empty registers -/

/-- Settles O42: the exchange is begun in this step, and beginning it is the read of REQ. -/
theorem linkRefusesEmptyRequest : Obligations.LinkRefusesEmptyRequest := by
  intro s rest ha hp hv
  have hq : s.req = .empty := by
    cases hreq : s.req with
    | empty => rfl
    | holding f => simp [State.reqV, hreq] at hv
  rw [step_begin ha hp, issue, beginExchange_of_empty (s := s.setPending rest) hq]
  rfl

/-- The readers of RSP while RSP_V = 0 (10_state.md R16). -/
theorem exec_readers_of_empty (h : s.rsp = .empty) :
    exec .rspClass s = .next (s.raise (.noValue .rsp)) ∧ exec .rspState s = .next (s.raise (.noValue .rsp)) := by
  simp [exec, execRspClass, execRspState, readRsp, h, finish, Except.map]

/-- Settles O25: both registers are empty at reset. -/
theorem resetLeavesRegistersUnreadable : Obligations.ResetLeavesRegistersUnreadable :=
  have ⟨hclass, hstate⟩ := exec_readers_of_empty (s := State.reset) rfl
  ⟨rfl, rfl, hclass, hstate, linkRefusesEmptyRequest _ [] rfl rfl rfl⟩

/-- Settles O26: the registers are empty, and no call is issued or in progress. -/
theorem resetMeetsTheInvariant : Obligations.ResetMeetsTheInvariant where
  req _ hf := by cases hf
  rsp _ hf := by cases hf
  count := by decide
  mark := rfl
  channel := rfl
  phase _ ha := by cases ha
  duty _ hc := by cases hc
  owns _ ha := by cases ha

end Sys2Proof.Machine
end

section
/-!
PROOFS. What a step can do while a call is in progress: which calls of other hosts run between two turns and which wait (20_memory.md R42, R48, R216), and
what the write turn of an exchange sends (R149).
-/

namespace Sys2Proof.Machine

variable {ev : LinkEvent} {a : Activity} {s t : State} {c : Call} {rest : List Call} {w : IssueWord} {i : Instr}

/-! ### A turn, or another host's call -/

theorem duringCall_nothing_issued {b : Bool} (hp : s.pending = []) : duringCall b ev a s = .next (advanceWith ev a s) := by
  simp [duringCall, hp]

/-- A call that cannot run between two turns waits, also when it would come first. -/
theorem duringCall_waits {b : Bool} (hp : s.pending = c :: rest) (hc : c.runsBetween = false) :
    duringCall b ev a s = .next (advanceWith ev a s) := by
  simp [duringCall, hp, hc]

theorem duringCall_runs (hp : s.pending = c :: rest) (hc : c.runsBetween = true) :
    duringCall true ev a s = issue c (s.setPending rest) := by
  simp [duringCall, hp, hc]

theorem duringCall_false (ev : LinkEvent) (a : Activity) (s : State) : duringCall false ev a s = .next (advanceWith ev a s) := by
  rcases duringCall_cases false ev a s with e | ⟨-, -, -, -, hfirst, -⟩
  · exact e
  · cases hfirst

/-- Settles O32: the step is duringCall by definition; with nothing issued, or a call that waits for the section, duringCall is the turn. -/
theorem stepIsATurnOfTheCallInProgress : Obligations.StepIsATurnOfTheCallInProgress := by
  intro s a ha
  refine ⟨step_during ha, fun ev u => duringCall_false ev a u, fun hp => ?_, fun rest hp => ?_⟩
  · exact (step_during ha).trans (duringCall_nothing_issued hp)
  · rcases hp with hp | hp <;> exact (step_during ha).trans (duringCall_waits hp rfl)

/-! ### A turn takes no call off -/

theorem linkRead_pending (ev : LinkEvent) (p : Purpose) (s : State) : (linkRead ev p s).pending = s.pending := by
  rcases linkRead_cases ev p s with ⟨-, e⟩ | ⟨-, _, _, _, _, _, -, e⟩ | ⟨-, -, e⟩ <;> rw [e]
  · rfl
  · cases p <;> rfl
  · rfl

theorem initScan_pending (ev : LinkEvent) (k : Nat) (s : State) : (initScan ev k s).pending = s.pending := by
  rcases initScan_cases ev k s with ⟨-, e⟩ | ⟨-, _, _, _, _, _, -, e⟩ | ⟨-, -, -, e⟩ | ⟨-, -, _, -, e⟩ <;> simp [e]

theorem handshakeTurn_pending (ev : LinkEvent) (ph : InitPhase) (s : State) : (handshakeTurn ev ph s).pending = s.pending := by
  cases ph with
  | opening => exact (initOpen_turnsTo s ev).pending
  | setup k => exact (initSetup_turnsTo s ev k).pending
  | chainWait => exact (initChainWait_turnsTo s ev).pending
  | sync k => exact (initSync_turnsTo s ev k).pending
  | syncWait => exact (initSyncWait_turnsTo s ev).pending
  | scan k => exact initScan_pending ev k s
  | closing n => exact (initClose_turnsTo s n).pending

/-- A turn takes no call off. (`advanceWith_turnsTo` says so of the call that is in progress; here `a` may be any.) -/
theorem advanceWith_pending (ev : LinkEvent) (a : Activity) (s : State) : (advanceWith ev a s).pending = s.pending := by
  cases a with
  | encode c x d w => exact (commandEncode_turnsTo s c x d w).pending
  | openLink p => exact (linkOpen_turnsTo s ev p).pending
  | writeFrame p => exact (linkWrite_turnsTo s ev p).pending
  | readFrame p => exact linkRead_pending ev p s
  | decodeResponse g w => exact (commandDecode_turnsTo s g w).pending
  | decodeState r => exact (commandState_turnsTo s r).pending
  | handshake ph => exact handshakeTurn_pending ev ph s

/-! ### Words -/

theorem issueWord_of_decode (hd : decode w = .ok i) (s : State) : issueWord w s = exec i s := by
  simp [issueWord, hd]

theorem runsBetween_word (hd : decode w = .ok i) : (Call.word w).runsBetween = !(i.writesReq || i.writesRsp) := by
  simp [Call.runsBetween, hd]

theorem decode_of_runsBetween_word (h : (Call.word w).runsBetween = true) :
    ∃ i, decode w = .ok i ∧ i.writesReq = false ∧ i.writesRsp = false := by
  cases hd : decode w with
  | error r => simp [Call.runsBetween, hd] at h
  | ok i => simpa [runsBetween_word hd] using h

theorem runsBetween_unguarded (hd : decode w = .ok i) : (Call.unguarded w).runsBetween = true := by
  simp [Call.runsBetween, hd]

/-- Settles O33: a guarded word may run between two turns exactly if it writes neither register, an unguarded one always. -/
theorem othersOperationsRunBetweenTurns : Obligations.OthersOperationsRunBetweenTurns := by
  intro ev a s w rest i hd
  refine ⟨fun hp hq hr => ?_, fun hp hwrites => ?_, fun hp => ?_⟩
  · have hc : (Call.word w).runsBetween = true := by simp [runsBetween_word hd, hq, hr]
    exact (duringCall_runs hp hc).trans (issueWord_of_decode hd _)
  · have hc : (Call.word w).runsBetween = false := by simpa [runsBetween_word hd, or_iff_not_imp_left] using hwrites
    exact duringCall_waits hp hc
  · exact (duringCall_runs hp (runsBetween_unguarded hd)).trans (issueWord_of_decode hd _)

/-- An instruction that writes no frame register only hands back its outcome. -/
theorem exec_next_of_writes_nothing (hq : i.writesReq = false) (hr : i.writesRsp = false) (ht : exec i s = .next t) :
    ∃ h, t = s.handBack h := by
  obtain ⟨q, r, h, hw, rfl⟩ := exec_next ht
  exact ⟨h, by rw [hw.req_kept hq, hw.rsp_kept hr]; rfl⟩

/-- Settles O35: the step is no turn, which would have left the word where it is; so the word has run, and it writes neither register. -/
theorem guardedOperationsLeaveTheCallAlone : Obligations.GuardedOperationsLeaveTheCallAlone := by
  intro ev a s t w rest hp ht hrest
  rcases duringCall_cases true ev a s with e | ⟨c, rest', hp', hc, -, e⟩ <;> rw [e] at ht
  · cases ht
    rw [advanceWith_pending, hp] at hrest
    exact absurd hrest (List.cons_ne_self _ _)
  · obtain ⟨rfl, rfl⟩ : .word w = c ∧ rest = rest' := List.cons.inj (hp.symm.trans hp')
    obtain ⟨i, hd, hq, hr⟩ := decode_of_runsBetween_word hc
    exact exec_next_of_writes_nothing hq hr ((issueWord_of_decode hd _).symm.trans ht)

/-! ### Pseudo-instructions -/

/-- Step 1 of CMD.TOGGLE1 refuses exactly an address of 0 and a port index above 7 (R86, R146). -/
theorem onehotOffence_isSome_iff (x k : Byte) : (onehotOffence x k).isSome = true ↔ x = 0 ∨ 7 < k.toNat := by
  rw [← addressRefused_iff, ← portIndexRefused_iff]
  unfold onehotOffence
  cases addressRefused x <;> cases portIndexRefused k <;> simp

/-- A call that is no word and can run between two turns is a command that step 1 refuses. -/
theorem duringCall_refuses (hp : s.pending = c :: rest) (hc : c.runsBetween = true) (hword : ∀ w, c ≠ .word w)
    (hunguarded : ∀ w, c ≠ .unguarded w) :
    ∃ b, duringCall true ev a s = .next { s with pending := rest, handed := s.handed ++ [.error (.configuration b)] } := by
  rcases runsBetween_cases hc with ⟨w, _, rfl, -⟩ | ⟨w, _, rfl, -⟩ | ⟨b, hb⟩
  · exact absurd rfl (hword w)
  · exact absurd rfl (hunguarded w)
  · exact ⟨b, (duringCall_runs hp hc).trans (hb _)⟩

/-- Settles O34: whether a command waits is whether step 1 accepts its operands. -/
theorem othersCommandsWaitOrAreRefused : Obligations.OthersCommandsWaitOrAreRefused := by
  intro ev a s rest p x k waits refused
  have hwaits : ∀ c : Call, c.runsBetween = false → waits c := fun c hc hp => duringCall_waits hp hc
  have hrefused : ∀ c : Call, c.runsBetween = true → (∀ w, c ≠ .word w) → (∀ w, c ≠ .unguarded w) → refused c :=
    fun c hc hword hunguarded hp => duringCall_refuses hp hc hword hunguarded
  refine ⟨fun hx => ?_, fun hx => ?_, fun hxk => ?_⟩
  · have hok : addressRefused x = false := by simpa [addressRefused] using hx
    refine ⟨hwaits _ hok, hwaits _ hok, hwaits _ hok, hwaits _ hok, hwaits _ hok, fun hk => hwaits _ ?_⟩
    exact Bool.eq_false_iff.mpr fun h => ((onehotOffence_isSome_iff x k).mp h).elim hx (Nat.not_lt.mpr hk)
  · have hbad : addressRefused x = true := (addressRefused_iff x).mpr hx
    exact ⟨hrefused _ hbad nofun nofun, hrefused _ hbad nofun nofun, hrefused _ hbad nofun nofun, hrefused _ hbad nofun nofun,
      hrefused _ hbad nofun nofun⟩
  · exact hrefused _ ((onehotOffence_isSome_iff x k).mpr hxk) nofun nofun

/-! ### What a step takes off while a call is in progress -/

/-- Settles O37: a step with a call in progress is a turn of it or one of the calls that run between two turns. -/
theorem noCallBeginsDuringAnother : Obligations.NoCallBeginsDuringAnother := by
  intro s t a ha ht
  rcases step_cases s with ⟨a', ha', e⟩ | ⟨hnone, -⟩ | ⟨_, _, hnone, -⟩ | ⟨_, c, rest, -, hp, hc, e⟩
  · rw [e] at ht
    cases ht
    exact .inl (advanceWith_pending _ _ _)
  · simp [ha] at hnone
  · simp [ha] at hnone
  · right
    rw [e] at ht
    rcases runsBetween_cases hc with ⟨w, i, rfl, hd, hq, hr, hi⟩ | ⟨w, i, rfl, hd, hi⟩ | ⟨b, hb⟩
    · obtain ⟨h, rfl⟩ := exec_next_of_writes_nothing hq hr ((hi _).symm.trans ht)
      exact ⟨_, hp, rfl, .inl ⟨w, i, hd, .inr ⟨rfl, hq, hr⟩⟩⟩
    · obtain ⟨q, r, h, -, rfl⟩ := exec_next ((hi _).symm.trans ht)
      exact ⟨_, hp, rfl, .inl ⟨w, i, hd, .inl rfl⟩⟩
    · rw [hb] at ht
      cases ht
      exact ⟨c, hp, rfl, .inr ⟨b, rfl⟩⟩

/-! ### The write turn -/

theorem readReq_of_holding {f : Frame} (h : s.req = .holding f) : readReq s = .ok f := by
  simp [readReq, h]

/-- Settles O46: the write turn finds the request in REQ and writes its bytes in wire order. -/
theorem linkSendsTheRequestInOrder : Obligations.LinkSendsTheRequestInOrder := by
  intro ev p s f hreq hev
  simp only [advanceWith, linkWrite, readReq_of_holding hreq, hev]
  rfl

end Sys2Proof.Machine
end

section
/-!
PROOFS. The statements of 30_encoding.md: which words the decoder rejects and what a step makes of them (R58, R70), the response codes (R57), and the
request with which each pseudo-instruction begins (R59, R60, R141 to R146).
-/

namespace Sys2Proof.Machine

variable {s : State} {c : Call} {rest : List Call} {w : IssueWord} {r : Reject}

/-! ### The words that are rejected -/

theorem decodeOp_eq_error_iff (sel p0 p1 p2 p3 : Byte) (r : Reject) :
    decodeOp sel p0 p1 p2 p3 = .error r ↔ 8 ≤ sel.toNat ∧ r = .noOperation sel := by
  unfold decodeOp
  split
  case h_9 => -- none of the eight operations
    have hsel : 8 ≤ sel.toNat := by
      simp only [imp_false] at *
      omega
    simp [hsel, eq_comm]
  all_goals
    next hsel => simp [hsel]

theorem decodeFrame_eq_error_iff (f : Frame) (r : Reject) :
    decodeFrame f = .error r ↔ (9 ≤ f.code.toNat ∧ f.code.toNat ≤ 246) ∧ r = .noFrame f.code := by
  unfold decodeFrame
  split
  case h_19 => -- neither a request command nor a response code
    have hcode : 9 ≤ f.code.toNat ∧ f.code.toNat ≤ 246 := by
      have := f.code.isLt
      simp only [imp_false] at *
      omega
    simp [hcode, eq_comm]
  all_goals
    next hcode => simp [hcode]

/-- Settles O3: each of the two decoders fails exactly in its last case. -/
theorem exactlyUndefinedWordsAreRejected : Obligations.ExactlyUndefinedWordsAreRejected := by
  intro w
  cases w with
  | op sel p0 p1 p2 p3 => simp [decode, decodeOp_eq_error_iff]
  | frame f => simp [decode, decodeFrame_eq_error_iff]

/-! ### What stops the machine -/

theorem issue_of_rejected (hc : c = .word w ∨ c = .unguarded w) (hd : decode w = .error r) (s : State) :
    issue c s = .refused (refusalOf r) := by
  rcases hc with rfl | rfl <;> simp [issue, issueWord, hd]

/-- A rejected word stops the machine when its turn comes. -/
theorem step_of_rejected (ha : s.active = none) (hp : s.pending = c :: rest) (hc : c = .word w ∨ c = .unguarded w)
    (hd : decode w = .error r) : step s = .refused (refusalOf r) :=
  (step_begin ha hp).trans (issue_of_rejected hc hd _)

theorem exec_completes (i : Instr) (s : State) : ∃ t, exec i s = .next t := by
  obtain ⟨q, r, h, hw⟩ := exec_writes i s
  exact ⟨_, hw.runs s rfl rfl⟩

theorem issueWord_completes_or_rejected (w : IssueWord) (s : State) :
    (∃ t, issueWord w s = .next t) ∨ ∃ r, decode w = .error r := by
  cases hd : decode w with
  | ok i => exact .inl (by simpa only [issueWord_of_decode hd] using exec_completes i s)
  | error r => exact .inr ⟨r, rfl⟩

/-- Beginning a call answers a next state, unless the call is a rejected word. -/
theorem issue_completes_or_rejected (c : Call) (s : State) :
    (∃ t, issue c s = .next t) ∨ ∃ w, (c = .word w ∨ c = .unguarded w) ∧ ∃ r, decode w = .error r := by
  cases c with
  | word w => exact (issueWord_completes_or_rejected w s).imp_right fun hr => ⟨w, .inl rfl, hr⟩
  | unguarded w => exact (issueWord_completes_or_rejected w s).imp_right fun hr => ⟨w, .inr rfl, hr⟩
  | _ => exact .inl ⟨_, rfl⟩

/-- A call that runs between two turns is never a rejected word: such a word waits (log entry 20). -/
theorem issue_completes_of_runsBetween (hc : c.runsBetween = true) (s : State) : ∃ t, issue c s = .next t := by
  rcases runsBetween_cases hc with ⟨w, i, -, -, -, -, hi⟩ | ⟨w, i, -, -, hi⟩ | ⟨b, hb⟩
  · exact hi s ▸ exec_completes i s
  · exact hi s ▸ exec_completes i s
  · exact ⟨_, hb s⟩

/-- The machine goes on unless the next call to begin is a rejected word. -/
theorem step_completes_or_rejected (s : State) :
    (∃ t, step s = .next t) ∨
      s.active = none ∧ ∃ c w rest, s.pending = c :: rest ∧ (c = .word w ∨ c = .unguarded w) ∧ ∃ r, decode w = .error r := by
  rcases step_cases s with ⟨a, -, e⟩ | ⟨-, -, e⟩ | ⟨c, rest, ha, hp, e⟩ | ⟨a, c, rest, -, -, hc, e⟩
  · exact .inl ⟨_, e⟩
  · exact .inl ⟨_, e⟩
  · rcases issue_completes_or_rejected c (s.setPending rest) with ht | ⟨w, hc, hr⟩
    · exact .inl (e ▸ ht)
    · exact .inr ⟨ha, c, w, rest, hp, hc, hr⟩
  · exact .inl (e ▸ issue_completes_of_runsBetween hc _)

/-- Settles O38: a rejected word whose turn has come is refused, and nothing else keeps a step from a next state. -/
theorem onlyUndefinedWordsStopTheMachine : Obligations.OnlyUndefinedWordsStopTheMachine := by
  intro s
  refine ⟨fun sel p0 p1 p2 p3 c rest ha hp hc hsel => ?_, fun f c rest ha hp hc hlow hhigh => ?_, fun ⟨t, ht⟩ hstop => ?_, fun hgoes => ?_⟩
  · exact step_of_rejected ha hp hc ((decodeOp_eq_error_iff sel p0 p1 p2 p3 _).mpr ⟨hsel, rfl⟩)
  · exact step_of_rejected ha hp hc ((decodeFrame_eq_error_iff f _).mpr ⟨⟨hlow, hhigh⟩, rfl⟩)
  · obtain ⟨ha, c, w, rest, hp, hc, hundefined⟩ := hstop
    obtain ⟨r, hd⟩ := (exactlyUndefinedWordsAreRejected w).mpr hundefined
    rw [step_of_rejected ha hp hc hd] at ht
    cases ht
  · refine (step_completes_or_rejected s).resolve_right fun ⟨ha, c, w, rest, hp, hc, hr⟩ => hgoes ?_
    exact ⟨ha, c, w, rest, hp, hc, (exactlyUndefinedWordsAreRejected w).mp hr⟩

/-- Settles O4: table T70 row by row, and from 0x8 on the decoder's rejection. -/
theorem selectCodesChooseOperations : Obligations.SelectCodesChooseOperations := by
  intro sel p0 p1 p2 p3
  refine ⟨?_, ?_, ?_, ?_, ?_, ?_, ?_, ?_, fun hsel _ s rest ha hp => ?_⟩
  · rintro rfl; exact ⟨_, rfl⟩
  · rintro rfl; exact ⟨_, rfl⟩
  · rintro rfl; exact ⟨_, _, rfl⟩
  · rintro rfl; exact ⟨_, _, rfl⟩
  · rintro rfl; exact ⟨_, _, _, rfl⟩
  · rintro rfl; exact ⟨_, rfl⟩
  · rintro rfl; rfl
  · rintro rfl; rfl
  · exact step_of_rejected ha hp (.inl rfl) ((decodeOp_eq_error_iff sel p0 p1 p2 p3 _).mpr ⟨hsel, rfl⟩)

/-! ### The response codes -/

theorem rspCodeOf_eq_not (b : Byte) : rspCodeOf b = ~~~b := BitVec.allOnes_sub_eq_not b

theorem cmdOfRspCode_eq_not (b : Byte) : cmdOfRspCode b = ~~~b := BitVec.allOnes_sub_eq_not b

theorem isRspCode_iff_mem (b : Byte) : isRspCode b = true ↔ b ∈ [255, 254, 253, 252, 251, 250, 249, 248, 247] := by
  rw [isRspCode_iff]
  have := b.isLt
  simp only [List.mem_cons, List.not_mem_nil, or_false, BitVec.toNat_eq, BitVec.ofNat_eq_ofNat, BitVec.reduceToNat]
  omega

/-- Settles O14: both maps are the complement, which is its own inverse and takes 0..8 to 247..255. -/
theorem responseCodeLaw : Obligations.ResponseCodeLaw := by
  refine ⟨fun c hc => ?_, fun r hr => ?_, isRspCode_iff_mem⟩
  · simp only [isRspCode_iff, rspCodeOf_eq_not, cmdOfRspCode_eq_not, BitVec.not_not, BitVec.toNat_not, true_and, and_true]
    omega
  · simp only [rspCodeOf_eq_not, cmdOfRspCode_eq_not, BitVec.not_not, BitVec.toNat_not, true_and, and_true]
    omega

/-! ### The request of a pseudo-instruction -/

theorem beginCommand_accepted {x : Byte} (cmd d : Byte) (wantsState : Bool) (s : State) (hx : x ≠ 0) :
    beginCommand cmd x d wantsState s = s.setActive (some (.encode cmd x d wantsState)) :=
  if_neg (mt (addressRefused_iff x).mp hx)

theorem portAt_onlyPort (k : Byte) (i : Fin 8) : portAt (onlyPort k) i = decide (i.val = k.toNat) := by
  rw [← Bool.coe_iff_coe]
  fin_cases i <;> simp [portAt, onlyPort, BitVec.toNat_eq, eq_comm (a:=k.toNat)]

/-- The byte of a single port is its weight (R53, R86). -/
theorem toByte_onlyPort (k : Byte) : toByte (onlyPort k) = 1#8 <<< k.toNat :=
  BitVec.eq_of_getLsbD_eq fun i hi => by
    rw [getLsbD_toByte (onlyPort k) ⟨i, hi⟩, portAt_onlyPort, ← BitVec.twoPow_eq, BitVec.getLsbD_twoPow, ← Bool.decide_and]
    exact decide_eq_decide.mpr (by dsimp only; omega)

theorem onehot_accepted {x k : Byte} (hx : x ≠ 0) (hk : k.toNat ≤ 7) : onehot x k = .ok ⟨onlyPort k, x⟩ := by
  have hoffence : onehotOffence x k = none :=
    Option.not_isSome_iff_eq_none.mp fun h => ((onehotOffence_isSome_iff x k).mp h).elim hx (Nat.not_lt.mpr hk)
  simp [onehot, hoffence]

theorem beginToggle1_accepted {x k : Byte} (s : State) (hx : x ≠ 0) (hk : k.toNat ≤ 7) :
    beginToggle1 x k s = s.setActive (some (.encode 8 x (1#8 <<< k.toNat) true)) := by
  rw [beginToggle1, onehot_accepted hx hk, ← toByte_onlyPort]
  exact beginCommand_accepted _ _ _ s hx

/-- Settles O45: each command is begun by beginCommand with its own command and data byte, and step 1 accepts the address. -/
theorem commandsBeginWithTheirRequest : Obligations.CommandsBeginWithTheirRequest := by
  intro s rest p x k ha hx begun
  have hbegun : ∀ {c : Call} {cmd d : Byte} {wantsState : Bool},
      (∀ s, issue c s = .next (beginCommand cmd x d wantsState s)) → s.pending = c :: rest → step s = .next (begun cmd d wantsState) :=
    fun hc hp => by rw [step_begin ha hp, hc, beginCommand_accepted _ _ _ _ hx]; rfl
  refine ⟨hbegun fun _ => rfl, hbegun fun _ => rfl, hbegun fun _ => rfl, hbegun fun _ => rfl, hbegun fun _ => rfl, fun hp hk => ?_⟩
  exact (step_begin ha hp).trans (congrArg _ (beginToggle1_accepted _ hx hk))

end Sys2Proof.Machine
end

section
/-!
PROOFS. The relay-state codec (40_relay_state_codec.md): the byte of a port set as a number and under port-wise logic, the operations built on it, and
the operands at which a pseudo-instruction is refused (42_wire_commands.md R148, 60_exceptions.md R161).
-/

namespace Sys2Proof.Machine

/-! ### The byte of a port set (R80 to R82, R88) -/

theorem ofBits_eq_sum {n : Nat} (f : Fin n → Bool) : Nat.ofBits f = ∑ i, if f i then 2 ^ i.val else 0 := by
  induction n with
  | zero => rfl
  | succ n ih =>
    have hlow : (f 0).toNat = if f 0 then 2 ^ (0 : Fin (n + 1)).val else 0 := by cases f 0 <;> rfl
    have hhigh : 2 * Nat.ofBits (f ∘ Fin.succ) = ∑ i : Fin n, if f i.succ then 2 ^ i.succ.val else 0 := by
      simp [ih, Finset.mul_sum, pow_succ']
    rw [Nat.ofBits_succ, Fin.sum_univ_succ, hlow, hhigh, Nat.add_comm]

/-- A byte is the number that its bits spell. -/
theorem toNat_eq_ofBits (b : Byte) : b.toNat = Nat.ofBits fun i : Fin 8 => b.getLsbD i :=
  ((Nat.ofBits_testBit b.toNat 8).trans (Nat.mod_eq_of_lt b.isLt)).symm

/-- R81: each true port adds its weight. -/
theorem toNat_toByte (p : Ports) : (toByte p).toNat = ∑ i : Fin 8, if portAt p i then 2 ^ i.val else 0 := by
  simp only [toNat_eq_ofBits, getLsbD_toByte, ofBits_eq_sum]

/-- A byte with the ports for its bits is the byte of the ports. -/
theorem toByte_eq_of_bits {p : Ports} {b : Byte} (h : ∀ i : Fin 8, portAt p i = b.getLsbD i) : toByte p = b := by
  rw [Ports.ext_portAt (q := fromByte b) fun i => (h i).trans (portAt_fromByte b i).symm, toByte_fromByte]

@[simp] theorem portAt_portwise (op : Bool → Bool → Bool) (p q : Ports) (i : Fin 8) :
    portAt (portwise op p q) i = op (portAt p i) (portAt q i) := by
  fin_cases i <;> rfl

@[simp] theorem portAt_portNot (p : Ports) (i : Fin 8) : portAt (portNot p) i = !portAt p i := by
  fin_cases i <;> rfl

theorem toByte_portwise_and (p q : Ports) : toByte (portwise and p q) = toByte p &&& toByte q :=
  toByte_eq_of_bits fun i => by rw [portAt_portwise, BitVec.getLsbD_and, getLsbD_toByte, getLsbD_toByte]

theorem toByte_portwise_or (p q : Ports) : toByte (portwise or p q) = toByte p ||| toByte q :=
  toByte_eq_of_bits fun i => by rw [portAt_portwise, BitVec.getLsbD_or, getLsbD_toByte, getLsbD_toByte]

theorem toByte_portwise_xor (p q : Ports) : toByte (portwise xor p q) = toByte p ^^^ toByte q :=
  toByte_eq_of_bits fun i => by rw [portAt_portwise, BitVec.getLsbD_xor, getLsbD_toByte, getLsbD_toByte]

theorem toByte_portNot (p : Ports) : toByte (portNot p) = ~~~toByte p :=
  toByte_eq_of_bits fun i => by rw [portAt_portNot, BitVec.getLsbD_not, getLsbD_toByte, decide_eq_true i.isLt, Bool.true_and]

theorem toByte_single {p : Ports} {k : Fin 8} (h : ∀ i, portAt p i = decide (i = k)) : toByte p = 1#8 <<< k.val := by
  have hk : (BitVec.ofNat 8 k.val).toNat = k.val := Nat.mod_eq_of_lt (by omega)
  have hp : p = onlyPort (BitVec.ofNat 8 k.val) :=
    Ports.ext_portAt fun i => by simp only [h i, portAt_onlyPort, hk, Fin.ext_iff]
  rw [hp, toByte_onlyPort, hk]

/-- Settles O6: the lemma about `portAt` and `fromByte`. -/
theorem fromByteSetsPortsToBits : Obligations.FromByteSetsPortsToBits := portAt_fromByte

/-- Settles O7: the bits one by one, and the number that they spell. -/
theorem toByteSumsWeights : Obligations.ToByteSumsWeights := fun p => ⟨getLsbD_toByte p, toNat_toByte p⟩

/-- Settles O8: a port set is its ports and a byte its bits, and each map keeps them. -/
theorem portCodecRoundTrip : Obligations.PortCodecRoundTrip := ⟨fromByte_toByte, toByte_fromByte⟩

/-- Settles O9: bit by bit, since bit `i` of the byte is port `i`. -/
theorem toByteCommutesWithPortwiseLogic : Obligations.ToByteCommutesWithPortwiseLogic :=
  ⟨rfl, rfl, fun _ _ => toByte_single, toByte_portwise_and, toByte_portwise_or, toByte_portwise_xor, toByte_portNot,
    fun p b i => ⟨getLsbD_toByte p i, portAt_fromByte b i⟩⟩

/-! ### The operations (R83 to R86) -/

theorem exec_rsFromByte (b : Byte) (s : State) : exec (.rsFromByte b) s = .next (s.handBack (.ports (fromByte b))) := rfl

theorem exec_rsToByte (p : Ports) (s : State) : exec (.rsToByte p) s = .next (s.handBack (.byte (toByte p))) := rfl

theorem exec_rsMake_accepted {x : Byte} (p : Ports) (s : State) (hx : x ≠ 0) :
    exec (.rsMake p x) s = .next (s.handBack (.relayState ⟨p, x⟩)) :=
  congrArg (finish · s) (if_neg (mt (addressRefused_iff x).mp hx))

theorem exec_rsMake_refused {x : Byte} (p : Ports) (s : State) (hx : x = 0) :
    exec (.rsMake p x) s = .next (s.handBack (.error (.configuration x))) :=
  congrArg (finish · s) (if_pos ((addressRefused_iff x).mpr hx))

theorem exec_rsOnehot_accepted {x k : Byte} (s : State) (hx : x ≠ 0) (hk : k.toNat ≤ 7) :
    exec (.rsOnehot x k) s = .next (s.handBack (.relayState ⟨onlyPort k, x⟩)) :=
  congrArg (fun r : Except Err RelayState => finish (r.map .relayState) s) (onehot_accepted hx hk)

theorem onehot_refused {x k b : Byte} (h : onehotOffence x k = some b) : onehot x k = .error (.configuration b) := by
  simp [onehot, h]

theorem exec_rsOnehot_refused {x k b : Byte} (s : State) (h : onehotOffence x k = some b) :
    exec (.rsOnehot x k) s = .next (s.handBack (.error (.configuration b))) :=
  congrArg (fun r : Except Err RelayState => finish (r.map .relayState) s) (onehot_refused h)

/-- The offence is the one operand that is out of range, and an unnamed one when both are (R86, U16). -/
theorem onehotOffence_of_refused {x k : Byte} (h : x = 0 ∨ 7 < k.toNat) :
    ∃ b, onehotOffence x k = some b ∧ (k.toNat ≤ 7 → b = x) ∧ (x ≠ 0 → b = k) := by
  simp only [onehotOffence, addressRefused_iff, portIndexRefused_iff]
  by_cases hx : x = 0
  · by_cases hk : 7 < k.toNat
    · exact ⟨Config.onehotOperand x k, by rw [if_pos hx, if_pos hk], fun hle => absurd hle (Nat.not_le.mpr hk), (absurd hx ·)⟩
    · exact ⟨x, by rw [if_pos hx, if_neg hk], fun _ => rfl, (absurd hx ·)⟩
  · have hk : 7 < k.toNat := h.resolve_left hx
    exact ⟨k, by rw [if_neg hx, if_pos hk], fun hle => absurd hle (Nat.not_le.mpr hk), fun _ => rfl⟩

/-- Settles O10: the decoder on the instructions' own words, and what the two instructions hand back. -/
theorem byteCodecOperationsComplete : Obligations.ByteCodecOperationsComplete := fun s b p =>
  ⟨⟨_, _, _, _, decode_encode (.rsFromByte b)⟩, ⟨_, _, _, _, decode_encode (.rsToByte p)⟩, exec_rsFromByte b s, exec_rsToByte p s,
    portAt_fromByte b, getLsbD_toByte p⟩

/-- Settles O11: the address is refused exactly when it is 0. -/
theorem rsMakeOutcome : Obligations.RsMakeOutcome := fun s p x =>
  ⟨⟨_, _, _, _, decode_encode (.rsMake p x)⟩, exec_rsMake_accepted p s, exec_rsMake_refused p s⟩

/-- Settles O12: with operands in range the ports are those of `onlyPort`; else the error names the offence. -/
theorem rsOnehotOutcome : Obligations.RsOnehotOutcome := by
  intro s x k
  refine ⟨⟨_, _, _, _, decode_encode (.rsOnehot x k)⟩, fun hx hk => ?_, fun hxk => ?_⟩
  · exact ⟨onlyPort k, exec_rsOnehot_accepted s hx hk, portAt_onlyPort k, toByte_onlyPort k⟩
  · obtain ⟨b, hoffence, hoperand⟩ := onehotOffence_of_refused hxk
    exact ⟨b, exec_rsOnehot_refused s hoffence, hoperand⟩

/-! ### Refused pseudo-instructions (R148, R161) -/

/-- Settles O44: each command is begun by beginCommand at address 0, which step 1 refuses, and CMD.TOGGLE1 by RS.ONEHOT, which names its offence. -/
theorem commandsRefuseBadOperands : Obligations.CommandsRefuseBadOperands := by
  intro s rest p k ha refused
  have hrefused : ∀ {c : Call} {cmd d : Byte} {wantsState : Bool},
      (∀ s, issue c s = .next (beginCommand cmd 0 d wantsState s)) → s.pending = c :: rest → step s = .next (refused 0) :=
    fun hc hp => by rw [step_begin ha hp, hc, beginCommand_refused _ rfl]; rfl
  refine ⟨hrefused fun _ => rfl, hrefused fun _ => rfl, hrefused fun _ => rfl, hrefused fun _ => rfl, hrefused fun _ => rfl, fun x hp hxk => ?_⟩
  obtain ⟨b, hoffence, hoperand⟩ := onehotOffence_of_refused hxk
  exact ⟨b, (step_begin ha hp).trans (congrArg _ (beginToggle1_refused _ hoffence)), hoperand⟩

end Sys2Proof.Machine
end

section
/-!
PROOFS. The frame codec (41_frame_codec.md): the request checksum (R101), the four operations of the codec (R102 to R107), and the whole run of a
pseudo-instruction that sends a request through it and decodes the response (42_wire_commands.md R140 to R149).
-/

namespace Sys2Proof.Machine

/-! ### The request checksum (R101) -/

theorem xor_chk_eq_zero (c a d : Byte) : c ^^^ a ^^^ d ^^^ chk c a d = 0 := BitVec.xor_self

theorem chk_eq_zero_iff (c a d : Byte) : chk c a d = 0 ↔ d = c ^^^ a := BitVec.xor_eq_zero_iff.trans eq_comm

theorem singleBit_ne_zero : ∀ i : Fin 8, 1#8 <<< i.val ≠ 0#8 := by decide

/-- Settles O13: changing bit `m` in one byte adds `m` to the exclusive or of the four, which was zero, and changing it in two adds `m ^^^ m`. -/
theorem checksumLaws : Obligations.ChecksumLaws := by
  intro c a d
  refine ⟨xor_chk_eq_zero c a d, chk_eq_zero_iff c a d, BitVec.xor_zero, ?_⟩
  intro k i hk m
  have hzero : c ^^^ a ^^^ d ^^^ k = 0 := hk ▸ xor_chk_eq_zero c a d
  have hone : ∀ {x : Byte}, x = c ^^^ a ^^^ d ^^^ k ^^^ m → x ≠ 0 := by
    rintro x rfl
    rw [hzero, BitVec.ofNat_eq_ofNat, BitVec.zero_xor]
    exact singleBit_ne_zero i
  have htwo : ∀ {x : Byte}, x = c ^^^ a ^^^ d ^^^ k ^^^ (m ^^^ m) → x = 0 := by
    rintro x rfl
    rw [hzero, BitVec.xor_self]
    rfl
  exact ⟨hone (by ac_rfl), hone (by ac_rfl), hone (by ac_rfl), hone (by ac_rfl), htwo (by ac_rfl), htwo (by ac_rfl), htwo (by ac_rfl),
    htwo (by ac_rfl), htwo (by ac_rfl), htwo (by ac_rfl)⟩

/-! ### The operations (R102 to R107) -/

variable {s : State}

theorem rsp_eq_empty_of_rspV (h : s.rspV = false) : s.rsp = .empty := by
  cases hr : s.rsp with
  | empty => rfl
  | holding f => simp [State.rspV, hr] at h

theorem readRsp_of_holding {f : Frame} (h : s.rsp = .holding f) : readRsp s = .ok f := by
  simp [readRsp, h]

theorem exec_rspClass_of_holding {f : Frame} (h : s.rsp = .holding f) :
    exec .rspClass s = .next (s.handBack (.command (cmdOfRspCode f.code))) :=
  congrArg (fun r : Except Err Frame => finish (r.map fun f : Frame => .command (cmdOfRspCode f.code)) s) (readRsp_of_holding h)

theorem exec_rspState_of_holding {f : Frame} (h : s.rsp = .holding f) :
    exec .rspState s = .next (s.handBack (.relayState (relayStateOf f))) :=
  congrArg (fun r : Except Err Frame => finish (r.map fun f => .relayState (relayStateOf f)) s) (readRsp_of_holding h)

/-- Settles O15: REQ.ENCODE is `issueEncode` on its operands. -/
theorem reqEncodeOutcome : Obligations.ReqEncodeOutcome := fun s c a d =>
  ⟨⟨_, _, _, _, decode_encode (.reqEncode c a d)⟩, issueEncode_ok a d s, fun hc => issueEncode_error a d s (Nat.not_le.mpr hc)⟩

/-- Settles O16: RSP.DECODE is `issueDecode` on its operand. -/
theorem rspDecodeOutcome : Obligations.RspDecodeOutcome := fun s f =>
  ⟨⟨_, _, _, _, decode_encode (.rspDecode f)⟩, issueDecode_ok s, fun hf => issueDecode_error s (Nat.not_le.mpr hf)⟩

/-- Settles O17: the two contents RSP can have, and the law of the response codes. -/
theorem rspClassOutcome : Obligations.RspClassOutcome := by
  intro s
  refine ⟨fun _ _ _ _ => rfl, fun hv => (exec_readers_of_empty (rsp_eq_empty_of_rspV hv)).1, fun f hr hcode => ?_⟩
  obtain ⟨hcmd, hrange, -⟩ := responseCodeLaw.2.1 f.code hcode
  exact ⟨cmdOfRspCode f.code, exec_rspClass_of_holding hr, hcmd, hrange⟩

/-- Settles O18: the two contents RSP can have. -/
theorem rspStateOutcome : Obligations.RspStateOutcome := fun _ =>
  ⟨fun _ _ _ _ => rfl, fun hv => (exec_readers_of_empty (rsp_eq_empty_of_rspV hv)).2, fun _ => exec_rspState_of_holding⟩

/-! ### The turns of a pseudo-instruction that goes well (R140, R149) -/

variable {c : Byte} {g : Frame}

theorem commandEncode_ok (a d : Byte) (w : Bool) (s : State) (hc : c.toNat ≤ 8) :
    commandEncode c a d w s = (s.setReq (.holding (requestFrame c a d))).setActive (some (.openLink (.command w))) := by
  simp [commandEncode, encodeRequest_ok a d s hc]

theorem linkOpen_ok {ev : LinkEvent} (p : Purpose) (s : State) (hev : ev.failed = false) :
    linkOpen ev p s = (s.setLine (s.line.openWith ev.arrived)).setActive (some (.writeFrame p)) := by
  simp [linkOpen, hev]

theorem linkRead_waits {ev : LinkEvent} (p : Purpose) (hev : ev.failed = false) (h : (s.line.input ++ ev.arrived).length < 4) :
    linkRead ev p s = s.setLine (s.line.setInput (s.line.input ++ ev.arrived)) := by
  rcases linkRead_cases ev p s with ⟨hf, -⟩ | ⟨-, b0, b1, b2, b3, rest, hb, -⟩ | ⟨-, -, e⟩
  · simp [hev] at hf
  · rw [hb] at h
    simp only [List.length_cons] at h
    omega
  · exact e

theorem linkRead_takes {ev : LinkEvent} {b0 b1 b2 b3 : Byte} {rest : List Byte} (p : Purpose) (hev : ev.failed = false)
    (h : s.line.input ++ ev.arrived = b0 :: b1 :: b2 :: b3 :: rest) :
    linkRead ev p s = exchangeDone p ⟨b0, b1, b2, b3⟩ (s.setLine s.line.flushClose) := by
  simp [linkRead, hev, h]

theorem commandDecode_ok (w : Bool) (s : State) (hg : 247 ≤ g.code.toNat) :
    commandDecode g w s =
      if w then (s.setRsp (.holding g)).setActive (some (.decodeState g)) else (s.setRsp (.holding g)).complete (.composite g none) := by
  simp [commandDecode, decodeResponse_ok s hg]

theorem commandState_of_holding {f : Frame} (r : Frame) (h : s.rsp = .holding f) :
    commandState r s = s.complete (.composite r (some (relayStateOf f))) := by
  simp [commandState, readRsp_of_holding h]

/-! ### The whole run -/

/-- A read only collects bytes in the turns that leave it with fewer than four (R203); with no turn at all any number may be there. -/
theorem turns_readFrame_waits {p : Purpose} (evs : List LinkEvent) (s : State) (ha : s.active = some (.readFrame p))
    (hev : ∀ ev ∈ evs, ev.failed = false) (hlen : evs ≠ [] → (s.line.input ++ evs.flatMap LinkEvent.arrived).length < 4) :
    turns evs s =
      { s with line := { s.line with input := s.line.input ++ evs.flatMap LinkEvent.arrived }, draws := s.draws + evs.length } := by
  induction evs generalizing s with
  | nil => simp [turns_nil]
  | cons ev evs ih =>
    obtain ⟨hhead, htail⟩ := List.forall_mem_cons.mp hev
    have hall : (s.line.input ++ ev.arrived ++ evs.flatMap LinkEvent.arrived).length < 4 := by simpa [Nat.add_assoc] using hlen
    have hnow : (s.line.input ++ ev.arrived).length < 4 := Nat.lt_of_le_of_lt (by simp) hall
    have hturn : advanceWith ev (.readFrame p) s.nextDraw = s.nextDraw.setLine (s.line.setInput (s.line.input ++ ev.arrived)) :=
      linkRead_waits p hhead hnow
    rw [turns_cons ev evs ha, hturn, ih _ ?active htail ?length]
    case active => exact ha
    case length => exact fun _ => hall
    simp [State.setLine, State.nextDraw, Line.setInput, Nat.add_comm, Nat.add_left_comm]

section

variable {eOpen eWrite eLast : LinkEvent} {reads : List LinkEvent} {b0 b1 b2 b3 : Byte} {dropped : List Byte}
  (hev : ∀ ev ∈ eOpen :: eWrite :: eLast :: reads, ev.failed = false)
  (hwait : reads ≠ [] → (eOpen.arrived ++ eWrite.arrived ++ reads.flatMap LinkEvent.arrived).length < 4)
  (hbytes : eOpen.arrived ++ eWrite.arrived ++ reads.flatMap LinkEvent.arrived ++ eLast.arrived = b0 :: b1 :: b2 :: b3 :: dropped)

include hev hwait hbytes

/-- An exchange that goes well, for a host or a pseudo-instruction: the frame in REQ is sent, and the first four bytes since the channel was opened are
given to whoever runs it, the channel closed and the rest dropped (R149). -/
theorem turns_exchange {p : Purpose} {f : Frame} (s : State) (ha : s.active = some (.openLink p)) (hreq : s.req = .holding f) :
    turns ([eOpen, eWrite] ++ reads ++ [eLast]) s =
      exchangeDone p ⟨b0, b1, b2, b3⟩
        { s with active := some (.readFrame p), line := { channelOpen := false, input := [], sent := s.line.sent ++ f.bytes },
                 draws := s.draws + 1 + 1 + reads.length + 1 } := by
  simp only [List.forall_mem_cons] at hev
  obtain ⟨hopen, hwrite, hlast, hreads⟩ := hev
  have hstart : turns [eOpen, eWrite] s =
      { s with active := some (.readFrame p), draws := s.draws + 1 + 1,
               line := { channelOpen := true, input := eOpen.arrived ++ eWrite.arrived, sent := s.line.sent ++ f.bytes } } := by
    rw [turns_cons eOpen _ ha, advanceWith, linkOpen_ok p _ hopen, turns_cons eWrite [] rfl, turns_nil]
    exact linkSendsTheRequestInOrder eWrite p _ f hreq hwrite
  rw [turns_append, turns_append, hstart, turns_readFrame_waits (p := p) reads _ rfl hreads hwait, turns_cons eLast [] rfl, advanceWith,
    linkRead_takes p hlast hbytes]
  rfl

/-- A pseudo-instruction from its encoding step to its decoding step (R140). -/
theorem turns_command_exchange {a d : Byte} {w : Bool} (s : State) (e0 : LinkEvent) (after : List LinkEvent)
    (ha : s.active = some (.encode c a d w)) (hc : c.toNat ≤ 8) :
    turns ([e0, eOpen, eWrite] ++ reads ++ eLast :: after) s =
      turns after
        { s with req := .holding (requestFrame c a d), active := some (.decodeResponse ⟨b0, b1, b2, b3⟩ w),
                 line := { channelOpen := false, input := [], sent := s.line.sent ++ (requestFrame c a d).bytes },
                 draws := s.draws + 1 + 1 + 1 + reads.length + 1 } := by
  have hcut : [e0, eOpen, eWrite] ++ reads ++ eLast :: after = e0 :: ([eOpen, eWrite] ++ reads ++ [eLast] ++ after) := by simp
  rw [hcut, turns_cons e0 _ ha, turns_append, advanceWith, commandEncode_ok a d w _ hc, turns_exchange hev hwait hbytes _ rfl rfl]
  rfl

end

/-- From the decoding step of a response code on: the response goes to RSP and the caller gets it, with its RelayState if the command returns one, and then
the call has had one turn or two. -/
theorem turns_command_result {w : Bool} (s : State) (eDecode eState : LinkEvent) (ha : s.active = some (.decodeResponse g w))
    (hg : 247 ≤ g.code.toNat) :
    ∃ n, turns [eDecode, eState] s =
      { s with rsp := .holding g, active := none, draws := n,
               handed := s.handed ++ [.composite g (if w then some (relayStateOf g) else none)] } := by
  rw [turns_cons eDecode _ ha, advanceWith, commandDecode_ok w _ hg]
  cases w with
  | false => exact ⟨_, turns_over _ rfl⟩
  | true =>
    rw [if_pos rfl, turns_cons eState [] rfl, advanceWith, commandState_of_holding g rfl]
    exact ⟨_, rfl⟩

/-- Settles O48: the exchange, and then the decoding of its response. -/
theorem commandRunsToItsResult : Obligations.CommandRunsToItsResult := by
  intro s c a d w e0 eOpen eWrite eLast eDecode eState reads b0 b1 b2 b3 dropped ha hc hev hwait hbytes hcode
  rw [turns_command_exchange hev hwait hbytes s e0 [eDecode, eState] ha hc]
  exact turns_command_result _ eDecode eState rfl hcode

end Sys2Proof.Machine
end

section
/-!
PROOFS. The wire commands (42_wire_commands.md): the request commands and the response codes as instructions (R120 to R138), and an exchange that waits,
succeeds or fails (R149, R164, R203).
-/

namespace Sys2Proof.Machine

/-! ### The exchange of a host, and the read that waits (R149, R203) -/

/-- Settles O47: no turn of a read with fewer than four bytes does more than collect what comes. -/
theorem readWaitsForFourBytes : Obligations.ReadWaitsForFourBytes := fun evs _ s ha hev hlen =>
  turns_readFrame_waits evs s ha hev fun _ => hlen

theorem beginExchange_of_holding {s : State} {f : Frame} (h : s.req = .holding f) :
    beginExchange s = s.setActive (some (.openLink .raw)) := by
  simp [beginExchange, readReq_of_holding h]

/-- Settles O50: the step begins the exchange, and the bytes that the exchange brings are its result. -/
theorem hostExchangeRunsToItsResult : Obligations.HostExchangeRunsToItsResult := by
  intro s rest f eOpen eWrite eLast reads b0 b1 b2 b3 dropped ha hp hreq hev hwait hbytes
  have hstep : step s = .next ((s.setPending rest).setActive (some (.openLink .raw))) := by
    rw [step_begin ha hp, issue, beginExchange_of_holding (s := s.setPending rest) hreq]
  have hturns := turns_exchange (f := f) hev hwait hbytes ((s.setPending rest).setActive (some (.openLink .raw))) rfl hreq
  rw [ha]
  exact ⟨_, _, hstep, hturns⟩

/-! ### Transport failures (R164) -/

section

variable {ev : LinkEvent} (p : Purpose) (k : Nat) (s : State) (hev : ev.failed = true)

include hev

theorem linkOpen_failed : linkOpen ev p s = s.transportFailure [] := if_pos hev

theorem linkWrite_failed {f : Frame} (hreq : s.req = .holding f) : linkWrite ev p s = s.transportFailure (f.bytes.take ev.wrote) := by
  simp [linkWrite, readReq_of_holding hreq, hev]

theorem linkRead_failed : linkRead ev p s = s.transportFailure [] := if_pos hev

theorem initOpen_failed : initOpen ev s = s.transportFailure [] := if_pos hev

theorem initSetup_failed : initSetup ev k s = s.transportFailure ([setupByte].take ev.wrote) := if_pos hev

theorem initSync_failed : initSync ev k s = s.transportFailure ([setupByte].take ev.wrote) := if_pos hev

theorem initScan_failed : initScan ev k s = s.transportFailure [] := if_pos hev

end

/-- Settles O51: each of the seven turns with a transport operation ends with `State.transportFailure`, given the bytes that had gone out. -/
theorem transportFailureEndsTheCall : Obligations.TransportFailureEndsTheCall := fun _ s hev =>
  ⟨fun p => linkOpen_failed p s hev, fun p _ hreq => linkWrite_failed p s hev hreq, fun p => linkRead_failed p s hev, initOpen_failed s hev,
    fun k => initSetup_failed k s hev, fun k => initSync_failed k s hev, fun k => initScan_failed k s hev⟩

/-! ### The instructions (R120 to R138) -/

/-- Settles O19: each request command is REQ.ENCODE with its own command value, which is in 0..8. -/
theorem requestCommandsBuildTheirFrames : Obligations.RequestCommandsBuildTheirFrames := by
  intro s a d built
  have hbuilt (c : Byte) (hc : c.toNat ≤ 8) : issueEncode c a d s = .next (built c) := issueEncode_ok a d s hc
  exact ⟨hbuilt 0 (by decide), hbuilt 1 (by decide), hbuilt 2 (by decide), hbuilt 3 (by decide), hbuilt 4 (by decide), hbuilt 5 (by decide),
    hbuilt 6 (by decide), hbuilt 7 (by decide), hbuilt 8 (by decide)⟩

/-- RSP.CLASS after a response has been stored answers the command of its code (R57, R106). -/
theorem exec_rspClass_after_response (s : State) (f : Frame) :
    exec .rspClass ((s.setRsp (.holding f)).handBack (.response f)) =
      .next { s with rsp := .holding f, handed := s.handed ++ [.response f, .command (cmdOfRspCode f.code)] } := by
  rw [exec_rspClass_of_holding (f := f) rfl]
  simp [State.handBack, State.setRsp]

/-- Settles O20: each response is RSP.DECODE of a frame with its own code, which is in 247..255. -/
theorem responseFramesAreStoredAndClassified : Obligations.ResponseFramesAreStoredAndClassified := by
  intro s a d k stored classified
  have hstored (c : Byte) (hc : 247 ≤ c.toNat) : issueDecode ⟨c, a, d, k⟩ s = .next (stored c) := issueDecode_ok s hc
  have hclass (c : Byte) : classified c (cmdOfRspCode c) := exec_rspClass_after_response s ⟨c, a, d, k⟩
  exact ⟨⟨hstored 255 (by decide), hclass 255⟩, ⟨hstored 254 (by decide), hclass 254⟩, ⟨hstored 253 (by decide), hclass 253⟩,
    ⟨hstored 252 (by decide), hclass 252⟩, ⟨hstored 251 (by decide), hclass 251⟩, ⟨hstored 250 (by decide), hclass 250⟩,
    ⟨hstored 249 (by decide), hclass 249⟩, ⟨hstored 248 (by decide), hclass 248⟩, ⟨hstored 247 (by decide), hclass 247⟩⟩

end Sys2Proof.Machine
end

section
/-!
PROOFS. Errors (60_exceptions.md): what a failing instruction leaves (R170), that each call is handed one outcome (R169, R173), and a pseudo-instruction
that ends with DecodeError (R171, R206).
-/

namespace Sys2Proof.Machine

/-! ### A failing instruction (R170) -/

section

variable {s t : State} {e : Err}

theorem finish_next_error {x : Except Err Handed} (h : finish x s = .next t) (ht : t.handed = s.handed ++ [.error e]) : t = s.raise e := by
  obtain ⟨o, ho⟩ := finish_handBack x
  rw [ho] at h
  cases h
  obtain rfl : o = .error e := by simpa using ht
  rfl

theorem issueEncode_next_error {c a d : Byte} (h : issueEncode c a d s = .next t) (ht : t.handed = s.handed ++ [.error e]) :
    t = (s.setReq .empty).raise e := by
  by_cases hc : c.toNat ≤ 8
  · rw [issueEncode_ok a d s hc] at h
    cases h
    simp at ht -- the frame has been handed back
  · rw [issueEncode_error a d s hc] at h
    cases h
    obtain rfl : .configuration c = e := by simpa using ht
    rfl

theorem issueDecode_next_error {f : Frame} (h : issueDecode f s = .next t) (ht : t.handed = s.handed ++ [.error e]) :
    t = (s.setRsp .empty).raise e := by
  by_cases hf : 247 ≤ f.code.toNat
  · rw [issueDecode_ok s hf] at h
    cases h
    simp at ht -- the response has been handed back
  · rw [issueDecode_error s hf] at h
    cases h
    obtain rfl : .decode f.code = e := by simpa using ht
    rfl

end

/-- Settles O23: the four shapes of an instruction, of which the first writes REQ and the second RSP. -/
theorem failingOperationClearsOnlyItsValidBit : Obligations.FailingOperationClearsOnlyItsValidBit := by
  intro i s t e h ht
  rcases exec_forms i with ⟨c, a, d, he, hq, hr⟩ | ⟨f, he, hq, hr⟩ | ⟨x, he, hq, hr⟩ | ⟨g, he, hq, hr⟩ <;> rw [he] at h <;> rw [hq, hr]
  · exact issueEncode_next_error h ht
  · exact issueDecode_next_error h ht
  · exact finish_next_error h ht
  · exact finish_next_error h ht

/-! ### One outcome for each call (R169, R173) -/

/-- A turn of a call leaves it in progress and hands nothing back, or ends it and hands back its one outcome. -/
inductive TurnAnswers (s t : State) : Prop where
  | goesOn (a : Activity) (ha : t.active = some a) (hh : t.handed = s.handed)
  | ends (h : Handed) (ha : t.active = none) (hh : t.handed = s.handed ++ [h])

section

variable (s : State) (ev : LinkEvent) (p : Purpose)

theorem transportFailure_answers (bs : List Byte) : TurnAnswers s (s.transportFailure bs) := .ends _ rfl rfl

theorem commandEncode_answers (c a d : Byte) (w : Bool) : TurnAnswers s (commandEncode c a d w s) := by
  by_cases hc : c.toNat ≤ 8
  · rw [commandEncode_ok a d w s hc]
    exact .goesOn _ rfl rfl
  · simp only [commandEncode, encodeRequest_error a d s hc]
    exact .ends _ rfl rfl

theorem linkOpen_answers : TurnAnswers s (linkOpen ev p s) := by
  unfold linkOpen
  split
  · exact transportFailure_answers s _
  · exact .goesOn _ rfl rfl

theorem linkWrite_answers : TurnAnswers s (linkWrite ev p s) := by
  rcases readReq_cases s with ⟨-, hread⟩ | ⟨f, -, hread⟩ <;> simp only [linkWrite, hread]
  · exact .ends _ rfl rfl
  · split
    · exact transportFailure_answers s _
    · exact .goesOn _ rfl rfl

theorem linkRead_answers (ha : s.active = some (.readFrame p)) : TurnAnswers s (linkRead ev p s) := by
  rcases linkRead_cases ev p s with ⟨-, e⟩ | ⟨-, _, _, _, _, _, -, e⟩ | ⟨-, -, e⟩ <;> rw [e]
  · exact transportFailure_answers s _
  · cases p with
    | raw => exact .ends _ rfl rfl
    | command w => exact .goesOn _ rfl rfl
  · exact .goesOn _ ha rfl

theorem commandDecode_error {g : Frame} (w : Bool) (hg : ¬ 247 ≤ g.code.toNat) :
    commandDecode g w s = (s.setRsp .empty).abort (.decode g.code) := by
  simp only [commandDecode, decodeResponse_error s hg]

theorem commandDecode_answers (g : Frame) (w : Bool) : TurnAnswers s (commandDecode g w s) := by
  by_cases hg : 247 ≤ g.code.toNat
  · rw [commandDecode_ok w s hg]
    cases w with
    | false => exact .ends _ rfl rfl
    | true => exact .goesOn _ rfl rfl
  · rw [commandDecode_error s w hg]
    exact .ends _ rfl rfl

theorem commandState_answers (r : Frame) : TurnAnswers s (commandState r s) := by
  rcases readRsp_cases s with ⟨-, hread⟩ | ⟨f, -, hread⟩ <;> simp only [commandState, hread]
  · exact .ends _ rfl rfl
  · exact .ends _ rfl rfl

theorem initScan_answers (k : Nat) (ha : s.active = some (.handshake (.scan k))) : TurnAnswers s (initScan ev k s) := by
  rcases initScan_cases ev k s with ⟨-, e⟩ | ⟨-, _, _, _, _, _, -, e⟩ | ⟨-, -, -, e⟩ | ⟨-, -, _, -, e⟩ <;> rw [e]
  · exact transportFailure_answers s _
  · exact .goesOn _ rfl rfl
  · exact .goesOn _ ha rfl
  · exact .goesOn _ rfl rfl

/-- The phases that open the transport or send a byte fail or move on (R164), the waits move on, and the last phase hands back the count. -/
theorem handshakeTurn_answers (ph : InitPhase) (ha : s.active = some (.handshake ph)) : TurnAnswers s (handshakeTurn ev ph s) := by
  have hsend {l : Line} {ph' : InitPhase} {bs : List Byte} :
      TurnAnswers s (if ev.failed then s.transportFailure bs else (s.setLine l).setPhase ph') := by
    split
    · exact transportFailure_answers s bs
    · exact .goesOn _ rfl rfl
  cases ph with
  | opening | setup k | sync k => exact hsend
  | chainWait | syncWait => exact .goesOn _ rfl rfl
  | scan k => exact initScan_answers s ev k ha
  | closing n => exact .ends _ rfl rfl

theorem advanceWith_answers {a : Activity} (ha : s.active = some a) : TurnAnswers s (advanceWith ev a s) := by
  cases a with
  | encode c x d w => exact commandEncode_answers s c x d w
  | openLink p => exact linkOpen_answers s ev p
  | writeFrame p => exact linkWrite_answers s ev p
  | readFrame p => exact linkRead_answers s ev p ha
  | decodeResponse g w => exact commandDecode_answers s g w
  | decodeState r => exact commandState_answers s r
  | handshake ph => exact handshakeTurn_answers s ev ph ha

end

/-- The calls still owed an outcome: issued and not begun, or in progress. -/
def State.owed (s : State) : Nat := s.pending.length + s.active.toList.length

theorem State.callsInAll_eq (s : State) : s.callsInAll = s.handed.length + s.owed := Nat.add_assoc _ _ _

theorem MayRun.pending_length {s : State} {w : IssueWord} {i : Instr} {rest : List Call} (h : MayRun s w i rest) :
    s.pending.length = rest.length + 1 := by
  rcases h with (⟨-, hp⟩ | hp) | ⟨hp, -⟩ <;> exact hp ▸ List.length_cons

/-- A step hands nothing back and leaves as many calls owed an outcome, or hands one back and leaves one call fewer. -/
theorem step_handed {s t : State} (h : step s = .next t) :
    (t.handed = s.handed ∧ t.owed = s.owed) ∨ ∃ o, t.handed = s.handed ++ [o] ∧ s.owed = t.owed + 1 := by
  cases step_next h with
  | turn a ha ht =>
    subst ht
    have hpend := (turnsTo_of_step ha).pending
    cases advanceWith_answers s.nextDraw s.linkEvent ha with
    | goesOn b hb hh => exact .inl ⟨hh, by simp [State.owed, hpend, hb, ha]⟩
    | ends o hb hh => exact .inr ⟨o, hh, by simp [State.owed, hpend, hb, ha]⟩
  | idle ht => exact .inl ⟨congrArg _ ht, congrArg _ ht⟩
  | ran w i rest n hp _ ht =>
    obtain ⟨q, r, o, -, rfl⟩ := ran_next ht
    exact .inr ⟨o, rfl, by simp only [State.owed, hp.pending_length]; omega⟩
  | refused c rest n e hp ht =>
    subst ht
    exact .inr ⟨_, rfl, by simp only [State.owed, hp, List.length_cons]; omega⟩
  | began c rest a ha hp _ _ _ ht =>
    subst ht
    exact .inl ⟨rfl, by simp [State.owed, ha, hp]⟩

/-- Settles O39: an outcome is handed back exactly when one call fewer is owed its outcome. -/
theorem noCallIsLostOrAnsweredTwice : Obligations.NoCallIsLostOrAnsweredTwice := by
  intro s t h
  rw [State.callsInAll_eq, State.callsInAll_eq]
  rcases step_handed h with ⟨hh, howed⟩ | ⟨o, hh, howed⟩ <;> rw [hh, howed]
  · exact ⟨rfl, Nat.le_succ _⟩
  · rw [List.length_append, List.length_singleton]
    exact ⟨by omega, Nat.le_refl _⟩

/-! ### A pseudo-instruction answered by no response (R171, R206) -/

/-- Settles O49: the exchange, and then the decoding step, which ends the call. -/
theorem commandEndsWithDecodeError : Obligations.CommandEndsWithDecodeError := by
  intro s c a d w e0 eOpen eWrite eLast eDecode reads b0 b1 b2 b3 dropped ha hc hev hwait hbytes hcode
  rw [turns_command_exchange hev hwait hbytes s e0 [eDecode] ha hc, turns_cons eDecode [] rfl, turns_nil, advanceWith,
    commandDecode_error _ w (Nat.not_le.mpr hcode)]
  exact ⟨_, rfl⟩

end Sys2Proof.Machine
end

section
/-!
PROOFS. Hazards (70_reset_and_hazards.md): when a run is over (R217), what has been handed back (R207), and what a host that breaks its duty does
to the call in progress (R200, R216).
-/

namespace Sys2Proof.Machine

/-- Settles O41: a run that is over has no call in progress and none issued. -/
theorem runOverIsFinal : Obligations.RunOverIsFinal := by
  intro s h
  simp only [State.runOver, Bool.and_eq_true, List.isEmpty_iff, Option.isNone_iff_eq_none] at h
  obtain ⟨hpending, hactive⟩ := h
  exact step_idle hactive hpending

/-- Settles O40: a step hands nothing back, or one outcome after the others. -/
theorem resultsAreCopies : Obligations.ResultsAreCopies := by
  intro s t h
  rcases step_handed h with ⟨hh, -⟩ | ⟨o, hh, -⟩
  · exact ⟨[], by simp [hh]⟩
  · exact ⟨[o], hh⟩

/-- Settles O36: the unguarded word runs between the turns, and the turn that follows reads the register it has written. -/
theorem brokenDutyGivesTheWrongFrame : Obligations.BrokenDutyGivesTheWrongFrame := by
  intro ev ev' s w rest hp
  have hruns {i : Instr} (a : Activity) (hd : decode w = .ok i) : duringCall true ev a s = exec i (s.setPending rest) :=
    (duringCall_runs hp (runsBetween_unguarded hd)).trans (issueWord_of_decode hd _)
  refine ⟨fun p c a d hd hc hev => ?_, fun r f hd hf => ?_⟩
  · refine ⟨_, (hruns _ hd).trans (issueEncode_ok a d _ hc), rfl, rfl, ?_⟩
    rw [linkSendsTheRequestInOrder ev' p _ (requestFrame c a d) rfl hev]
    exact ⟨rfl, rfl⟩
  · refine ⟨_, (hruns _ hd).trans (issueDecode_ok _ hf), rfl, rfl, ?_⟩
    rw [advanceWith, commandState_of_holding (f := f) r rfl]
    rfl

end Sys2Proof.Machine
end

section
/-!
PROOFS. The handshake INIT (70_reset_and_hazards.md R188 to R199): its turns one by one, that none of them looks at a frame register, and the scan of
step 6 over any number of turns.
-/

namespace Sys2Proof.Machine

/-! ### The turns before the scan, and the last one (R188 to R192, R195, R196) -/

section

variable {ev : LinkEvent} (k : Nat) (s : State) (hev : ev.failed = false)

include hev

theorem initOpen_ok : initOpen ev s = (s.setLine (s.line.openWith [])).setPhase (.setup 0) := by
  simp [initOpen, hev]

theorem initSetup_ok :
    initSetup ev k s = (s.setLine ((s.line.write [setupByte]).receive ev.arrived)).setPhase
      (if 3 < (s.line.input ++ ev.arrived).length ∨ 4 ≤ k + 1 then .chainWait else .setup (k + 1)) :=
  if_neg (by simp [hev])

theorem initSync_ok :
    initSync ev k s = (s.setLine ((s.line.write [setupByte]).receive ev.arrived)).setPhase
      (if 4 ≤ k + 1 then .syncWait else .sync (k + 1)) :=
  if_neg (by simp [hev])

end

/-- Settles O52: INIT is begun whatever the state, and the three turns are written out in the model. -/
theorem initOpensDiscardsAndWaits : Obligations.InitOpensDiscardsAndWaits :=
  ⟨fun _ _ ha hp => step_begin ha hp, fun _ s => ⟨initOpen_ok s, rfl, rfl⟩⟩

/-- Settles O53: a turn of step 2 that does not fail. -/
theorem initSetupSendsAtMostFour : Obligations.InitSetupSendsAtMostFour := fun _ k s hev => initSetup_ok k s hev

theorem turns_sync {ev : LinkEvent} {k : Nat} {s : State} (evs : List LinkEvent) (ha : s.active = some (.handshake (.sync k)))
    (hev : ev.failed = false) :
    turns (ev :: evs) s =
      turns evs ((s.nextDraw.setLine ((s.line.write [setupByte]).receive ev.arrived)).setPhase
        (if 4 ≤ k + 1 then .syncWait else .sync (k + 1))) :=
  (turns_cons ev evs ha).trans (congrArg _ (initSync_ok k s.nextDraw hev))

/-- Settles O54: each turn of step 4 sends one byte, and the fourth leaves it. -/
theorem initSyncSendsFour : Obligations.InitSyncSendsFour := by
  intro s e1 e2 e3 e4 ha hev
  simp only [List.forall_mem_cons] at hev
  obtain ⟨h1, h2, h3, h4, -⟩ := hev
  rw [turns_sync _ ha h1, turns_sync _ rfl h2, turns_sync _ rfl h3, turns_sync _ rfl h4, turns_nil]
  simp [setupByte]

/-- Settles O58: the last turn as the model has it. -/
theorem initClosesAndMarks : Obligations.InitClosesAndMarks := fun _ _ _ => rfl

/-- Settles O60: 0 reports 255 boards, and any other byte is at least 1. -/
theorem detectedCountOfReportedAddress : Obligations.DetectedCountOfReportedAddress := by
  have hne {r : Byte} (hr : r ≠ 0) : detectedCountOf r = (r.toNat : Int) - 1 := if_neg hr
  refine ⟨rfl, fun r => ⟨hne, ?_, (detectedCountOf_range r).2⟩⟩
  by_cases hr : r = 0
  · subst hr
    decide
  · have hpos : 0 < r.toNat := Nat.pos_of_ne_zero fun h0 => hr (BitVec.eq_of_toNat_eq h0)
    rw [hne hr]
    omega

/-! ### One turn of the scan (R193, R194) -/

section

variable {ev : LinkEvent} {s : State} (k : Nat) (hev : ev.failed = false)

include hev

theorem initScan_takes {b0 b1 b2 b3 : Byte} {rest : List Byte} (h : s.line.input ++ ev.arrived = b0 :: b1 :: b2 :: b3 :: rest) :
    initScan ev k s = (s.setLine (s.line.setInput rest)).setPhase (if b0 = 1 then .closing (detectedCountOf b1) else scanOn k) := by
  simp [initScan, isSetupEcho, hev, h]

theorem initScan_short (h : (s.line.input ++ ev.arrived).length < 4) :
    (ev.shortRead = none → initScan ev k s = s.setLine (s.line.setInput (s.line.input ++ ev.arrived))) ∧
    ∀ n, ev.shortRead = some n →
      initScan ev k s = (s.setLine (s.line.setInput ((s.line.input ++ ev.arrived).drop n))).setPhase (scanOn k) := by
  rcases initScan_cases ev k s with ⟨hf, -⟩ | ⟨-, _, _, _, _, _, hb, -⟩ | ⟨-, -, hr, e⟩ | ⟨-, -, n, hr, e⟩
  · simp [hev] at hf
  · rw [hb] at h
    simp only [List.length_cons] at h
    omega
  · simp [hr, e]
  · simp [hr, e]

end

/-! ### No turn looks at a frame register (R199) -/

/-- What a turn of INIT makes of a state: it only changes the line, or also moves on, or fails, or closes. -/
inductive InitDeed : (State → State) → Prop where
  | waits (l : Line) : InitDeed fun s => s.setLine l
  | moves (l : Line) (ph : InitPhase) : InitDeed fun s => (s.setLine l).setPhase ph
  | fails (bs : List Byte) : InitDeed fun s => s.transportFailure bs
  | closes (n : Int) : InitDeed (initClose n)

/-- Which of these a turn does depends on nothing of the state but the line. -/
theorem handshakeTurn_deed (ev : LinkEvent) (ph : InitPhase) (l : Line) :
    ∃ deed, InitDeed deed ∧ ∀ s : State, s.line = l → handshakeTurn ev ph s = deed s := by
  have hsend {l' : Line} {ph' : InitPhase} {bs : List Byte}
      (h : ∀ s : State, s.line = l → handshakeTurn ev ph s = if ev.failed then s.transportFailure bs else (s.setLine l').setPhase ph') :
      ∃ deed, InitDeed deed ∧ ∀ s : State, s.line = l → handshakeTurn ev ph s = deed s := by
    cases hf : ev.failed with
    | true => exact ⟨_, .fails bs, fun s hs => (h s hs).trans (if_pos hf)⟩
    | false => exact ⟨_, .moves l' ph', fun s hs => (h s hs).trans (if_neg (by simp [hf]))⟩
  cases ph with
  | opening => exact hsend fun s hs => by rw [handshakeTurn, initOpen, hs]
  | setup k => exact hsend fun s hs => by rw [handshakeTurn, initSetup, hs]
  | sync k => exact hsend fun s hs => by rw [handshakeTurn, initSync, hs]
  | chainWait => exact ⟨_, .moves (l.receive ev.arrived) (.sync 0), fun s hs => hs ▸ rfl⟩
  | syncWait => exact ⟨_, .moves (l.receive ev.arrived) (.scan 0), fun s hs => hs ▸ rfl⟩
  | closing n => exact ⟨_, .closes n, fun _ _ => rfl⟩
  | scan k =>
    cases hf : ev.failed with
    | true => exact ⟨_, .fails [], fun s _ => initScan_failed k s hf⟩
    | false =>
      rcases fewer_than_four_or_chunk (l.input ++ ev.arrived) with hlen | ⟨_, _, _, _, _, hb⟩
      · cases hr : ev.shortRead with
        | none => exact ⟨_, .waits _, fun s hs => by rw [handshakeTurn, (initScan_short k hf (hs ▸ hlen)).1 hr, hs]⟩
        | some n => exact ⟨_, .moves _ _, fun s hs => by rw [handshakeTurn, (initScan_short k hf (hs ▸ hlen)).2 n hr, hs]⟩
      · exact ⟨_, .moves _ _, fun s hs => by rw [handshakeTurn, initScan_takes k hf (hs ▸ hb), hs]⟩

/-- Settles O59: none of the four deeds touches a register, and each hands back nothing, TransportError or the count. -/
theorem initNeitherReadsNorWritesTheRegisters : Obligations.InitNeitherReadsNorWritesTheRegisters := by
  intro ev ph s q r
  obtain ⟨deed, hdeed, hturn⟩ := handshakeTurn_deed ev ph s.line
  have hs : advanceWith ev (.handshake ph) s = deed s := hturn s rfl
  have hqr : advanceWith ev (.handshake ph) { s with req := q, rsp := r } = deed { s with req := q, rsp := r } := hturn _ rfl
  rw [hs, hqr]
  have hsetup : ∀ a d, decodeFrame ⟨setupByte, a, d, chk setupByte a d⟩ = .ok (.setup a d) := fun _ _ => rfl
  have hfour : (requestFrame setupByte setupByte setupByte).bytes = [setupByte, setupByte, setupByte, setupByte] := by decide
  cases hdeed with
  | waits l | moves l ph' => exact ⟨rfl, rfl, rfl, .inl rfl, hsetup, hfour⟩
  | closes n => exact ⟨rfl, rfl, rfl, .inr (.inl ⟨n, rfl⟩), hsetup, hfour⟩
  | fails bs => exact ⟨rfl, rfl, rfl, .inr (.inr rfl), hsetup, hfour⟩

/-! ### The scan over any number of turns -/

/-- A turn that `scanOver` counts is no attempt or one, and the scan goes on with what it leaves of the input. -/
theorem initScan_of_scanOver {ev : LinkEvent} {evs : List LinkEvent} {s : State} {k n : Nat} {left : List Byte}
    (ha : s.active = some (.handshake (.scan k))) (h : scanOver (ev :: evs) s.line.input = some (n, left)) (hk : k + n < 256) :
    ∃ d n' mid, n = d + n' ∧ scanOver evs mid = some (n', left) ∧
      initScan ev k s = (s.setLine (s.line.setInput mid)).setPhase (.scan (k + d)) := by
  have hattempt {mid : List Byte} (hm : (scanOver evs mid).map (fun r => (r.1 + 1, r.2)) = some (n, left)) :
      ∃ n', n = 1 + n' ∧ scanOver evs mid = some (n', left) ∧ scanOn k = .scan (k + 1) := by
    obtain ⟨⟨n', left'⟩, hrest, heq⟩ := Option.map_eq_some_iff.mp hm
    obtain ⟨rfl, rfl⟩ := Prod.mk.inj heq
    exact ⟨n', Nat.add_comm _ _, hrest, scanOn_before_last (by omega)⟩
  cases hf : ev.failed with
  | true => simp [scanOver, hf] at h
  | false =>
    rcases fewer_than_four_or_chunk (s.line.input ++ ev.arrived) with hlen | ⟨b0, _, _, _, rest, hb⟩
    · rw [scanOver_short hf hlen] at h
      cases hr : ev.shortRead with
      | none =>
        rw [hr] at h
        refine ⟨0, n, _, (Nat.zero_add n).symm, h, ?_⟩
        rw [(initScan_short k hf hlen).1 hr, Nat.add_zero, State.setPhase, ← ha]
        rfl
      | some m =>
        rw [hr] at h
        obtain ⟨n', hn, hrest, hon⟩ := hattempt h
        exact ⟨1, n', _, hn, hrest, hon ▸ (initScan_short k hf hlen).2 m hr⟩
    · rw [scanOver_chunk hf hb] at h
      have hb0 : b0 ≠ 1 := fun h1 => by simp [h1] at h
      rw [if_neg hb0] at h
      obtain ⟨n', hn, hrest, hon⟩ := hattempt h
      refine ⟨1, n', rest, hn, hrest, ?_⟩
      rw [initScan_takes k hf hb, if_neg hb0, hon]

section

variable {evs : List LinkEvent} {s : State} {k n : Nat} {left : List Byte} (ha : s.active = some (.handshake (.scan k)))
  (hover : scanOver evs s.line.input = some (n, left)) (hk : k + n < 256)

include ha hover hk

theorem turns_scanOver :
    turns evs s =
      { s with active := some (.handshake (.scan (k + n))), line := { s.line with input := left }, draws := s.draws + evs.length } := by
  induction evs generalizing s k n with
  | nil =>
    obtain ⟨rfl, rfl⟩ := Prod.mk.inj (Option.some.inj hover)
    rw [Nat.add_zero, ← ha]
    rfl
  | cons ev evs ih =>
    obtain ⟨d, n', mid, rfl, hrest, e⟩ := initScan_of_scanOver (s := s.nextDraw) ha hover hk
    rw [turns_cons ev evs ha, advanceWith, handshakeTurn, e, ih rfl hrest (by omega)]
    simp [State.setActive, State.setLine, State.nextDraw, Line.setInput, Nat.add_comm, Nat.add_left_comm]

/-- The turn after these is a scan turn with `k + n` attempts made and `left` buffered. -/
theorem turns_scanOver_then (last : LinkEvent) :
    ∃ t : State, t.active = some (.handshake (.scan (k + n))) ∧ t.line.input = left ∧
      turns (evs ++ [last]) s = initScan last (k + n) t := by
  rw [turns_append, turns_scanOver ha hover hk, turns_cons last [] rfl, turns_nil]
  exact ⟨_, rfl, rfl, rfl⟩

theorem turns_scanOver_then_echo {last : LinkEvent} {b1 b2 b3 : Byte} {rest : List Byte} (hf : last.failed = false)
    (hb : left ++ last.arrived = 1 :: b1 :: b2 :: b3 :: rest) :
    (turns (evs ++ [last]) s).active = some (.handshake (.closing (if b1 = 0 then 255 else (b1.toNat : Int) - 1))) := by
  obtain ⟨t, -, rfl, e⟩ := turns_scanOver_then ha hover hk last
  rw [e, initScan_takes _ hf hb, if_pos rfl]
  rfl

theorem turns_scanOver_then_last_chunk {last : LinkEvent} {b0 b1 b2 b3 : Byte} {rest : List Byte} (hf : last.failed = false)
    (hb : left ++ last.arrived = b0 :: b1 :: b2 :: b3 :: rest) (hb0 : b0 ≠ 1) (hlast : k + n = 255) :
    (turns (evs ++ [last]) s).active = some (.handshake (.closing (-1))) := by
  obtain ⟨t, -, rfl, e⟩ := turns_scanOver_then ha hover hk last
  rw [e, initScan_takes _ hf hb, if_neg hb0, hlast, scanOn_last]
  rfl

end

/-- Settles O57: the turns counted by `scanOver`, and then a turn of each kind. -/
theorem initScanTurnsCountAttempts : Obligations.InitScanTurnsCountAttempts := by
  intro evs s k n left ha hover hk
  refine ⟨turns_scanOver ha hover hk, fun last hf => ⟨?echo, ?lastChunk, ?lastShort, ?waits⟩⟩
  case echo =>
    rintro b0 b1 b2 b3 rest hb rfl
    exact turns_scanOver_then_echo ha hover hk hf hb
  case lastChunk =>
    intro b0 b1 b2 b3 rest hb hb0 hlast
    exact turns_scanOver_then_last_chunk ha hover hk hf hb hb0 hlast
  case lastShort =>
    intro hlen hr hlast
    obtain ⟨m, hm⟩ := Option.ne_none_iff_exists'.mp hr
    obtain ⟨t, -, rfl, e⟩ := turns_scanOver_then ha hover hk last
    rw [e, (initScan_short _ hf hlen).2 m hm, hlast, scanOn_last]
    rfl
  case waits =>
    intro hlen hr
    obtain ⟨t, hactive, rfl, e⟩ := turns_scanOver_then ha hover hk last
    rw [e, (initScan_short _ hf hlen).1 hr]
    exact hactive

/-! ### The chunks of the input, in whatever pieces they come -/

/-- One of the turns finds the chunk `final` at the front of the input, those before it having passed over the chunks before that. -/
theorem scanOver_reaches_chunk {passed : List Frame} {final : Frame} {rest bs : List Byte} {j : Nat} {evs : List LinkEvent}
    (hin : bs ++ (evs.take j).flatMap LinkEvent.arrived = passed.flatMap Frame.bytes ++ final.bytes ++ rest)
    (hpassed : ∀ f ∈ passed, f.code ≠ 1) (hlen : j + passed.length + 1 ≤ evs.length)
    (hev : ∀ ev ∈ evs, ev.failed = false ∧ ev.shortRead = none) :
    ∃ before ev after left more, evs = before ++ ev :: after ∧ scanOver before bs = some (passed.length, left) ∧
      ev.failed = false ∧ left ++ ev.arrived = final.bytes ++ more := by
  induction evs generalizing bs j passed rest with
  | nil => simp at hlen
  | cons ev evs ih =>
    obtain ⟨⟨hf, hr⟩, htail⟩ := List.forall_mem_cons.mp hev
    simp only [List.length_cons] at hlen
    obtain ⟨more, hmore⟩ : ∃ more, bs ++ ev.arrived ++ (evs.take (j - 1)).flatMap LinkEvent.arrived =
        passed.flatMap Frame.bytes ++ final.bytes ++ more := by
      cases j with
      | zero => exact ⟨rest ++ ev.arrived, by simpa using congrArg (· ++ ev.arrived) hin⟩
      | succ j => exact ⟨rest, by simpa using hin⟩
    rcases fewer_than_four_or_chunk (bs ++ ev.arrived) with hshort | ⟨b0, b1, b2, b3, tail, hb⟩
    · have hj : j ≠ 0 := by
        rintro rfl
        have hcount := congrArg List.length hmore
        simp [Frame.bytes] at hcount hshort
        omega
      obtain ⟨before, ev', after, left, more', rfl, hover, hlast⟩ := ih hmore hpassed (by omega) htail
      exact ⟨ev :: before, ev', after, left, more', rfl, by rw [scanOver_short hf hshort, hr, hover], hlast⟩
    · rw [hb] at hmore
      cases passed with
      | nil =>
        simp only [List.flatMap_nil, List.nil_append, Frame.bytes, List.cons_append, List.cons.injEq] at hmore
        obtain ⟨rfl, rfl, rfl, rfl, -⟩ := hmore
        exact ⟨[], ev, evs, bs, tail, rfl, rfl, hf, hb⟩
      | cons f passed =>
        simp only [List.flatMap_cons, Frame.bytes, List.cons_append, List.nil_append, List.cons.injEq] at hmore
        obtain ⟨rfl, -, -, -, htl⟩ := hmore
        obtain ⟨hcode, hpassed⟩ := List.forall_mem_cons.mp hpassed
        simp only [List.length_cons] at hlen
        obtain ⟨before, ev', after, left, more', rfl, hover, hlast⟩ := ih htl hpassed (by omega) htail
        refine ⟨ev :: before, ev', after, left, more', rfl, ?_, hlast⟩
        rw [scanOver_chunk hf hb, if_neg hcode, hover]
        rfl

/-- Settles O55: the turn that finds the echo ends the scan with its count. -/
theorem initScanStopsAtFirstEcho : Obligations.InitScanStopsAtFirstEcho := by
  intro passed echo rest k j evs s ha hin hpassed hecho hk hlen hev
  obtain ⟨before, ev, after, left, more, rfl, hover, hf, hb⟩ := scanOver_reaches_chunk hin hpassed hlen hev
  refine ⟨(before ++ [ev]).length, by simp, ?_⟩
  rw [List.append_cons before ev after, List.take_left]
  rw [Frame.bytes, hecho] at hb
  exact turns_scanOver_then_echo ha hover hk hf hb

/-- Settles O56: the turn that finds the last of the 256 chunks ends the scan without an echo. -/
theorem initScanGivesUpAfter256 : Obligations.InitScanGivesUpAfter256 := by
  intro passed rest j evs s ha hin hpassed h256 hlen hev
  obtain rfl | ⟨chunks, final, rfl⟩ := List.eq_nil_or_concat' passed
  · cases h256
  · simp only [List.length_append, List.length_singleton] at h256
    obtain ⟨hchunks, hfinal⟩ := List.forall_mem_append.mp hpassed
    rw [List.flatMap_append, List.flatMap_singleton] at hin
    obtain ⟨before, ev, after, left, more, rfl, hover, hf, hb⟩ := scanOver_reaches_chunk hin hchunks (by omega) hev
    refine ⟨(before ++ [ev]).length, by simp, ?_⟩
    rw [List.append_cons before ev after, List.take_left]
    exact turns_scanOver_then_last_chunk ha hover (by omega) hf hb (hfinal final (List.mem_singleton_self _)) (by omega)

end Sys2Proof.Machine
end
